-- ==== Sys2Proof/Word.lean ====
section
/-! DEFINITION. The 32-bit word (00_scope R9), the binary32 pattern (R12) and the complex sample (R13). -/

namespace Sys2Proof

/-- "All words are 32 bits unless a width is stated" (R9). -/
abbrev Word := BitVec 32

/-- `F32`: an IEEE 754 binary32 "as its 32-bit pattern" (R12). -/
abbrev F32 := BitVec 32

/-- A complex sample `(re, im)`: "a pair of single-precision floats (real, imaginary)" (R13). -/
structure Cplx where
  re : F32
  im : F32
  deriving DecidableEq, Repr

/-- `(+0, +0)`. -/
def Cplx.zero : Cplx := ⟨0#32, 0#32⟩

/-- `zext_32(imm16)` (R9, R105). -/
def zext (imm : BitVec 16) : Word := imm.setWidth 32

/-- `hi ++ lo`, `hi` in the more significant position (R9). -/
def joinHalves (hi lo : BitVec 16) : Word := hi ++ lo

/-- Bits 15:0 of a word. -/
def lowHalf (w : Word) : BitVec 16 := w.setWidth 16

end Sys2Proof
end

