-- ==== Sys2Proof/Config.lean ====
section
/-! DEFINITION. What an implementation fixes (00_scope R7) and the free values: what the spec leaves open, as
constants without a body, so that no proof can see a value of one. -/

namespace Sys2Proof

/-- The transform direction: `fwd` is `e^(-2 pi i k/N)`, `inv` is `e^(+2 pi i k/N)` (R14, R103). -/
inductive Dir where
  | fwd
  | inv
  deriving DecidableEq, Repr

namespace Config

/-- `WALSH_NEG_RULE` (R7, 49_walsh R332). -/
inductive WalshNegRule where
  | both
  | exactlyOne
  deriving DecidableEq, Repr

/-- `HIL_NYQ_CLASS`: the class of bin `N/2` in the Hilbert rotation (R7, 48_hilbert R321). -/
inductive NyqClass where
  | negative
  | positive
  | untouched
  deriving DecidableEq, Repr

/-- Which table the twiddle ROM holds (42_fft_engine R210, U6): the decided default, or some other admissible
generator, named by a number so that it stays plain data. -/
inductive TwiddleGen where
  | correctlyRounded
  | other (name : Nat)
  deriving DecidableEq, Repr

/-- The parameters of R7. They "never change" (10_state R30). Log entry 1. -/
structure Params where
  logCap   : Nat
  logCmd   : Nat
  wLogDim  : Nat
  twiddle  : TwiddleGen
  walshNeg : WalshNegRule
  hilNyq   : NyqClass
  deriving DecidableEq, Repr

/-- The ranges R7 gives the three open sizes. -/
def Params.wf (c : Params) : Bool :=
  decide (3 ≤ c.logCap) && decide (c.logCap ≤ 24) && decide (4 ≤ c.logCmd) && decide (c.logCmd ≤ 16) &&
    decide (c.wLogDim ≤ 12)

/-- `CAP = 2^LOGCAP`. -/
def Params.cap (c : Params) : Nat := 2 ^ c.logCap

/-- `CMDCAP = 2^LOGCMD`. -/
def Params.cmdCap (c : Params) : Nat := 2 ^ c.logCmd

/-- `WDIM = 2^WLOGDIM`. -/
def Params.wDim (c : Params) : Nat := 2 ^ c.wLogDim

/-- The suggested sizes and the default choices of R7. DESIGN CHOICE (log entry 1): they serve the one state
`State.reset`; every statement about all states covers all parameter values. -/
def Params.suggested : Params :=
  { logCap := 12, logCmd := 8, wLogDim := 6, twiddle := .correctlyRounded, walshNeg := .both, hilNyq := .negative }

/-- The memories whose words may be unspecified (10_state R46, R47). -/
inductive Region where
  | command
  | real (r : Fin 4)
  | cplx (b : Fin 4)
  deriving DecidableEq, Repr

/-- FREE VALUE (U2, U4, U15; log entry 2): what an unspecified word of a memory reads as: a draw for each location
(`index`) and for each time the memory's contents became unspecified (`draw`). -/
opaque freeWord (region : Region) (draw : Nat) (index : Nat) : Word

/-- The operations that can produce a NaN. -/
inductive FOp where
  | add
  | sub
  | mul
  | div
  | sqrt
  | atan2
  deriving DecidableEq, Repr

/-- FREE VALUE (R12, U3; log entry 4): sign and payload of the NaN an operation produces, a function of the operation
and its operands alone. `F32.nanOf` makes a NaN of it. -/
opaque nanBits (op : FOp) (x y : F32) : BitVec 32

/-- FREE VALUE (41_complex_alu R167, U5, U7; log entry 5): the arctangent, before the named properties are imposed by
`F32.fatan2`. -/
opaque rawAtan2 (y x : F32) : F32

/-- FREE VALUE (42_fft_engine R210, U6; log entry 6): the table of another twiddle generator, before the four
properties of an admissible table are imposed by `twiddle`. -/
opaque rawTwiddle (name : Nat) (dir : Dir) (n k : Nat) : F32 × F32

end Config

end Sys2Proof
end

