-- ==== Sys2Proof/Machine/Float.lean ====
section
/-! DEFINITION. The numerics record `NUM` of 00_scope R12: IEEE 754 binary32 on bit patterns, round to nearest ties to
even, subnormals kept, nothing fused, no flags and no traps. Log entries 4, 5, 7. -/

namespace Sys2Proof

namespace F32

/-! ## The pattern (R12: sign bit 31, exponent bits 30:23, fraction bits 22:0) -/

def sign (x : F32) : Bool := x.msb

def expField (x : F32) : Nat := x.toNat / 2 ^ 23 % 256

def frac (x : F32) : Nat := x.toNat % 2 ^ 23

/-- The pattern without its sign bit. -/
def magBits (x : F32) : Nat := x.toNat % 2 ^ 31

def isNaN (x : F32) : Bool := expField x == 255 && frac x != 0

def isInf (x : F32) : Bool := expField x == 255 && frac x == 0

def isFinite (x : F32) : Bool := expField x != 255

/-- A finite `x` is `(-1)^sign * mant x * 2^(expo x)`. -/
def mant (x : F32) : Nat := if expField x = 0 then frac x else 2 ^ 23 + frac x

def expo (x : F32) : Int := (max (expField x) 1 : Nat) - 150

/-- `mant`, with the sign. -/
def smant (x : F32) : Int := if sign x then -(mant x : Int) else mant x

/-- A sign put on a magnitude pattern. -/
def pack (sgn : Bool) (mag : Nat) : F32 := BitVec.ofNat 32 ((if sgn then 2 ^ 31 else 0) + mag)

def zero : F32 := 0#32

def negZero : F32 := 0x80000000#32

def infMag : Nat := 0x7F800000

/-- The NaN an operation produces: sign and payload are free (`Config.nanBits`), the rest makes it a NaN. -/
def nanOf (op : Config.FOp) (x y : F32) : F32 :=
  let w := Config.nanBits op x y
  pack w.msb (infMag + max 1 (frac w))

/-! ## Rounding -/

/-- `m / 2^sh` rounded to the nearest integer, ties to even (`sh ≥ 1`). -/
def roundShift (m sh : Nat) : Nat :=
  let q := m / 2 ^ sh
  let r := m % 2 ^ sh
  let half := 2 ^ (sh - 1)
  if half < r || (r == half && q % 2 == 1) then q + 1 else q

/-- The exponent of the last place a binary32 result of size `m * 2^e` has: 23 below its leading bit, and not below
`-149`, the last place of the subnormals. -/
def ulpExp (m : Nat) (e : Int) : Int := max (e + (Nat.log2 m : Int) - 23) (-149)

/-- The magnitude pattern of the binary32 nearest to `m * 2^e`, ties to even; infinity where that overflows. Adding the
rounded significand onto `(t + 149) * 2^23` gives the exponent field, a carry out of the significand included. -/
def roundMag (m : Nat) (e : Int) : Nat :=
  if m = 0 then 0
  else
    let t := ulpExp m e
    let q := if t ≤ e then m * 2 ^ (e - t).toNat else roundShift m (t - e).toNat
    min ((t + 149).toNat * 2 ^ 23 + q) infMag

/-! ## The operations of R12 -/

/-- "inverts bit 31 and nothing else (also on NaN and zero)". -/
def fneg (x : F32) : F32 := x ^^^ 0x80000000#32

/-- "true exactly when `x` is `+0` (`0x00000000`) or `-0` (`0x80000000`)". -/
def feq0 (x : F32) : Bool := x == zero || x == negZero

/-- The exact sum of two finite numbers, rounded once. An exact zero is `+0`, unless both addends are negative zeros. -/
def addFinite (x y : F32) : F32 :=
  let e := min (expo x) (expo y)
  let s := smant x * 2 ^ (expo x - e).toNat + smant y * 2 ^ (expo y - e).toNat
  if s = 0 then pack (sign x && sign y) 0 else pack (decide (s < 0)) (roundMag s.natAbs e)

/-- Addition of numbers that are not NaN; `nan` is what `inf - inf` gives. -/
def addNumber (nan x y : F32) : F32 :=
  if isInf x then (if isInf y && sign x != sign y then nan else x)
  else if isInf y then y
  else addFinite x y

def fadd (x y : F32) : F32 :=
  if isNaN x || isNaN y then nanOf .add x y else addNumber (nanOf .add x y) x y

def fsub (x y : F32) : F32 :=
  if isNaN x || isNaN y then nanOf .sub x y else addNumber (nanOf .sub x y) x (fneg y)

def fmul (x y : F32) : F32 :=
  let sgn := sign x != sign y
  if isNaN x || isNaN y then nanOf .mul x y
  else if isInf x || isInf y then (if feq0 x || feq0 y then nanOf .mul x y else pack sgn infMag)
  else pack sgn (roundMag (mant x * mant y) (expo x + expo y))

/-- The quotient of two numbers `m * 2^e`, `n * 2^e'` as a number with one more bit that says whether it was inexact;
64 more bits than the operands have leave that bit far below the last place of the result. -/
def quotient (m n : Nat) : Nat := 2 * (m * 2 ^ 64 / n) + (if m * 2 ^ 64 % n = 0 then 0 else 1)

def fdiv (x y : F32) : F32 :=
  let sgn := sign x != sign y
  if isNaN x || isNaN y then nanOf .div x y
  else if isInf x then (if isInf y then nanOf .div x y else pack sgn infMag)
  else if isInf y then pack sgn 0
  else if feq0 y then (if feq0 x then nanOf .div x y else pack sgn infMag)
  else pack sgn (roundMag (quotient (mant x) (mant y)) (expo x - expo y - 65))

/-- The bits of the integer square root of `n`, from bit `k - 1` down, added to `r`. -/
def isqrtFrom (n : Nat) : Nat → Nat → Nat
  | 0, r => r
  | k + 1, r => isqrtFrom n k (if (r + 2 ^ k) * (r + 2 ^ k) ≤ n then r + 2 ^ k else r)

/-- The integer square root of a number below `2^96`. -/
def isqrt (n : Nat) : Nat := isqrtFrom n 48 0

/-- Twice the integer square root of `n`, with a last bit that says whether it was inexact. -/
def rootOf (n : Nat) : Nat :=
  let r := isqrt n
  2 * r + (if r * r = n then 0 else 1)

def fsqrt (x : F32) : F32 :=
  if isNaN x then nanOf .sqrt x zero
  else if feq0 x then x
  else if sign x then nanOf .sqrt x zero
  else if isInf x then x
  else
    let k : Nat := if expo x % 2 = 0 then 64 else 65
    pack false (roundMag (rootOf (mant x * 2 ^ k)) ((expo x - k) / 2 - 1))

/-- Where a number that is not NaN stands among the binary32 numbers; `-0` and `+0` stand at one place. -/
def rank (x : F32) : Int := if sign x then -(magBits x : Int) else magBits x

/-- "IEEE 754 ordered comparison: false if either operand is a NaN; `-0` equals `+0`". -/
def flt (x y : F32) : Bool := !isNaN x && !isNaN y && decide (rank x < rank y)

def fle (x y : F32) : Bool := !isNaN x && !isNaN y && decide (rank x ≤ rank y)

def fge (x y : F32) : Bool := fle y x

/-- "the binary32 equal to `n`; only ever applied to `n <= 2^24`, where it is exact". -/
def u2f (n : Nat) : F32 := pack false (roundMag n 0)

/-- A magnitude with the sign of `x`. -/
def signed (x : F32) (mag : Nat) : Int := if sign x then -(mag : Int) else mag

/-- "`x` rounded toward zero; `none` for NaN and infinities". -/
def f2iTrunc (x : F32) : Option Int :=
  if !isFinite x then none
  else some (signed x (if 0 ≤ expo x then mant x * 2 ^ (expo x).toNat else mant x / 2 ^ (-expo x).toNat))

/-- "`x` rounded to the nearest integer, halves away from zero; `none` for NaN and infinities". -/
def f2iRound (x : F32) : Option Int :=
  if !isFinite x then none
  else some (signed x
    (if 0 ≤ expo x then mant x * 2 ^ (expo x).toNat
     else (mant x + 2 ^ ((-expo x).toNat - 1)) / 2 ^ (-expo x).toNat))

/-! ## The arctangent (41_complex_alu R167) -/

/-- The binary32 nearest `pi/2`. -/
def halfPi : F32 := 0x3FC90FDB#32

/-- The magnitude pattern of the binary32 nearest `pi`. -/
def piMag : Nat := 0x40490FDB

/-- `fatan2(y, x)`: OPEN but for the four named properties of R167: `fatan2(+0, x) = +0` for `x > 0`;
`fatan2(y, +0)` is `±pi/2` for `y > 0`, `y < 0`; the result lies in `[-pi, +pi]` rounded; a NaN operand gives a NaN.
At `(±0, ±0)` it is any value of binary32 (U5). -/
def fatan2 (y x : F32) : F32 :=
  let raw := Config.rawAtan2 y x
  if isNaN y || isNaN x then nanOf .atan2 y x
  else if feq0 y && feq0 x then raw
  else if y == zero && flt zero x then zero
  else if x == zero then (if flt zero y then halfPi else fneg halfPi)
  else if magBits raw ≤ piMag then raw
  else zero

end F32

end Sys2Proof
end

