-- ==== Sys2Proof/Machine/Complex.lean ====
section
/-! DEFINITION. The functions of the complex arithmetic unit (41_complex_alu part 1, R160 to R170). -/

namespace Sys2Proof

open F32

/-- R161. -/
def cadd (a b : Cplx) : Cplx := ⟨fadd a.re b.re, fadd a.im b.im⟩

/-- R162. -/
def csub (a b : Cplx) : Cplx := ⟨fsub a.re b.re, fsub a.im b.im⟩

/-- R163: four products, one subtraction, one addition, each rounded on its own. -/
def cmul (a b : Cplx) : Cplx :=
  ⟨fsub (fmul a.re b.re) (fmul a.im b.im), fadd (fmul a.re b.im) (fmul a.im b.re)⟩

/-- The computed denominator of R164 and R179. -/
def cnormSq (b : Cplx) : F32 := fadd (fmul b.re b.re) (fmul b.im b.im)

/-- R164; only applied where the denominator is not zero (R179 faults first). -/
def cdiv (a b : Cplx) : Cplx :=
  let d := cnormSq b
  ⟨fdiv (fadd (fmul a.re b.re) (fmul a.im b.im)) d, fdiv (fsub (fmul a.im b.re) (fmul a.re b.im)) d⟩

/-- R165: two divisions. -/
def cdivs (a : Cplx) (s : F32) : Cplx := ⟨fdiv a.re s, fdiv a.im s⟩

/-- R166, unscaled. -/
def cmag (a : Cplx) : F32 := fsqrt (fadd (fmul a.re a.re) (fmul a.im a.im))

/-- R167. -/
def cphase (a : Cplx) : F32 := fatan2 a.im a.re

/-- R168: the test is on the computed magnitude, and the operand itself is returned where it is zero. -/
def cnorm (a : Cplx) : Cplx :=
  let m := cmag a
  if feq0 m then a else cdivs a m

/-- R169. -/
def ciszero (a : Cplx) : Bool := feq0 a.re && feq0 a.im

/-- R170. -/
def cconj (a : Cplx) : Cplx := ⟨a.re, fneg a.im⟩

/-- A bin rotated "by +90° (replace (re,im) with (im,−re))" (48_hilbert R320). -/
def rotp (a : Cplx) : Cplx := ⟨a.im, fneg a.re⟩

/-- A bin rotated "by −90° (replace with (−im,re))" (48_hilbert R320). -/
def rotn (a : Cplx) : Cplx := ⟨fneg a.im, a.re⟩

end Sys2Proof
end

