-- ==== Sys2Proof/Syntax.lean ====
section
/-! DEFINITION. The 52 commands of 30_encoding R106 (spec/opcode_table.json), one constructor a row, operands in
assembler order (R110). An operand's type is its kind (R103): `p` is `Fin 16`, `z` is `Fin 8`, `r` and `c` are
`Fin 4`, `dir` is `Dir`, `imm16` is `BitVec 16`. -/

namespace Sys2Proof

inductive Instr where
  -- 40: sequencer, scalar registers, moves
  | nop
  | halt
  | setlo (pd : Fin 16) (imm : BitVec 16)
  | sethi (pd : Fin 16) (imm : BitVec 16)
  | movp (pd ps : Fin 16)
  | ccopy (cd cs : Fin 4)
  | rcopy (rd rs : Fin 4)
  | czero (cd : Fin 4) (pn : Fin 16)
  | rzero (rd : Fin 4) (pn : Fin 16)
  | rld (pd : Fin 16) (rs : Fin 4) (pi : Fin 16)
  | rst (rd : Fin 4) (pi ps : Fin 16)
  -- 41: complex arithmetic unit
  | zmk (zd : Fin 8) (pa pb : Fin 16)
  | zre (pd : Fin 16) (zs : Fin 8)
  | zim (pd : Fin 16) (zs : Fin 8)
  | zld (zd : Fin 8) (cs : Fin 4) (pi : Fin 16)
  | zst (cd : Fin 4) (pi : Fin 16) (zs : Fin 8)
  | zadd (zd za zb : Fin 8)
  | zsub (zd za zb : Fin 8)
  | zmul (zd za zb : Fin 8)
  | zdiv (zd za zb : Fin 8)
  | zdivs (zd za : Fin 8) (ps : Fin 16)
  | zmag (pd : Fin 16) (zs : Fin 8)
  | zphase (pd : Fin 16) (zs : Fin 8)
  | znorm (zd zs : Fin 8)
  | zisz (pd : Fin 16) (zs : Fin 8)
  | zconj (zd zs : Fin 8)
  -- 42: FFT engine
  | bitrev (cb : Fin 4)
  | bfly (cb : Fin 4) (dir : Dir)
  | fft (cb : Fin 4)
  | ifft (cb : Fin 4)
  | twid (zd : Fin 8) (dir : Dir) (pn pk : Fin 16)
  -- 43: real-signal adapter
  | lift (cd rs : Fin 4) (ps : Fin 16)
  | rfft (cd rs : Fin 4) (ps : Fin 16)
  | rfftg (cd rs cs : Fin 4) (pb pg : Fin 16)
  | realp (rd cs : Fin 4)
  -- 44: bandpass
  | bpedge (pd pn pfs pf0 pbw : Fin 16)
  | bpmask (cb : Fin 4) (pi : Fin 16)
  | bpf (cb : Fin 4) (pfs pf0 pbw : Fin 16)
  -- 45: convolution
  | cmulv (cd cs : Fin 4)
  | conv (rd ra rb ca cb : Fin 4) (ps : Fin 16)
  -- 46: cross-correlation
  | conjv (cb : Fin 4)
  | whiten (cb : Fin 4)
  | xcinit (cf rs : Fin 4) (ps : Fin 16)
  | xcorr (rsig cf cw : Fin 4)
  -- 47: resampler
  | zstuff (cd cs : Fin 4) (pt : Fin 16)
  | decim (rd cs : Fin 4) (pstep pn : Fin 16)
  | resamp (rd rs ca cb : Fin 4) (pbase : Fin 16)
  -- 48: Hilbert
  | hrot (cb : Fin 4)
  | hilb (cd rs : Fin 4) (pn : Fin 16)
  -- 49: Walsh
  | words (pn : Fin 16)
  | wget (pd pi pj : Fin 16)
  | wfill
  deriving DecidableEq, Repr

end Sys2Proof
end

