-- ==== Sys2Proof/WellFormed.lean ====
section
/-! DEFINITION. Which terms of `Instr` are commands. Every operand's kind is in its type; what is left is the three
register blocks, which must fit below `P[15]` (30_encoding R103, R107 (e)). -/

namespace Sys2Proof

/-- The block constraints of R103: `BPEDGE` writes `P[pd..pd+3]`, `BPMASK` reads `P[pi..pi+1]`, `RESAMP` reads
`P[pbase..pbase+4]`. -/
def Instr.wellFormed : Instr → Bool
  | .bpedge pd _ _ _ _ => decide (pd.val ≤ 12)
  | .bpmask _ pi => decide (pi.val ≤ 14)
  | .resamp _ _ _ _ pbase => decide (pbase.val ≤ 11)
  | .nop | .halt | .setlo _ _ | .sethi _ _ | .movp _ _ | .ccopy _ _ | .rcopy _ _ | .czero _ _ | .rzero _ _
  | .rld _ _ _ | .rst _ _ _ | .zmk _ _ _ | .zre _ _ | .zim _ _ | .zld _ _ _ | .zst _ _ _ | .zadd _ _ _
  | .zsub _ _ _ | .zmul _ _ _ | .zdiv _ _ _ | .zdivs _ _ _ | .zmag _ _ | .zphase _ _ | .znorm _ _ | .zisz _ _
  | .zconj _ _ | .bitrev _ | .bfly _ _ | .fft _ | .ifft _ | .twid _ _ _ _ | .lift _ _ _ | .rfft _ _ _
  | .rfftg _ _ _ _ _ | .realp _ _ | .bpf _ _ _ _ | .cmulv _ _ | .conv _ _ _ _ _ _ | .conjv _ | .whiten _
  | .xcinit _ _ _ | .xcorr _ _ _ | .zstuff _ _ _ | .decim _ _ _ _ | .hrot _ | .hilb _ _ _ | .words _
  | .wget _ _ _ | .wfill => true

end Sys2Proof
end

