-- ==== Sys2Proof/Decode.lean ====
section
/-! DEFINITION. The decoder (30_encoding R109), total on every word, the encoder written from the same encodings
(R101, R102, R106), the opcode table of R106 as it is printed, and `decodeTableWord`. -/

namespace Sys2Proof

/-! ## Fields (R101, R102) -/

/-- The 4-bit field of `w` whose lowest bit is `lo`. -/
def field (w : Word) (lo : Nat) : Nat := w.toNat / 2 ^ lo % 16

/-- Bits 31:24. -/
def opcode (w : Word) : Nat := w.toNat / 2 ^ 24

/-- The bits of `w` below bit `n`, as one number: a command's unused fields (R101). -/
def below (w : Word) (n : Nat) : Nat := w.toNat % 2 ^ n

/-- `imm16 = W[15:0]` (R105). -/
def imm16 (w : Word) : BitVec 16 := w.setWidth 16

/-! ## Operand kinds (R103) -/

/-- `p`: "all 16 values legal". -/
def asP (n : Nat) : Option (Fin 16) := if h : n < 16 then some ⟨n, h⟩ else none

/-- `z`: "values 8 to 15 illegal". -/
def asZ (n : Nat) : Option (Fin 8) := if h : n < 8 then some ⟨n, h⟩ else none

/-- `r`, `c`: "values 4 to 15 illegal". -/
def asBank (n : Nat) : Option (Fin 4) := if h : n < 4 then some ⟨n, h⟩ else none

/-- `dir`: "`0 = fwd`, `1 = inv`, values 2 to 15 illegal". -/
def asDir (n : Nat) : Option Dir := if n = 0 then some .fwd else if n = 1 then some .inv else none

/-- The field value of a direction. -/
def Dir.code : Dir → Nat
  | .fwd => 0
  | .inv => 1

/-- A check of the decoder: the word is illegal where it fails. -/
def must (p : Prop) [Decidable p] : Option Unit := if p then some () else none

/-! ## The decoder -/

/-- R109: the row with the opcode, its unused fields zero, its operands legal, its block constraint met; else illegal
(`none`, R107). -/
def decode (w : Word) : Option Instr :=
  match opcode w with
  -- 0x0_: sequencer and moves (spec file 40)
  | 0x01 => do must (below w 24 = 0); return .nop
  | 0x02 => do must (below w 24 = 0); return .halt
  | 0x03 => do must (field w 16 = 0); return .setlo (← asP (field w 20)) (imm16 w)
  | 0x04 => do must (field w 16 = 0); return .sethi (← asP (field w 20)) (imm16 w)
  | 0x05 => do must (below w 16 = 0); return .movp (← asP (field w 20)) (← asP (field w 16))
  | 0x06 => do must (below w 16 = 0); return .ccopy (← asBank (field w 20)) (← asBank (field w 16))
  | 0x07 => do must (below w 16 = 0); return .rcopy (← asBank (field w 20)) (← asBank (field w 16))
  | 0x08 => do must (below w 16 = 0); return .czero (← asBank (field w 20)) (← asP (field w 16))
  | 0x09 => do must (below w 16 = 0); return .rzero (← asBank (field w 20)) (← asP (field w 16))
  | 0x0A => do must (below w 12 = 0); return .rld (← asP (field w 20)) (← asBank (field w 16)) (← asP (field w 12))
  | 0x0B => do must (below w 12 = 0); return .rst (← asBank (field w 20)) (← asP (field w 16)) (← asP (field w 12))
  -- 0x1_: complex value type (41)
  | 0x10 => do must (below w 12 = 0); return .zmk (← asZ (field w 20)) (← asP (field w 16)) (← asP (field w 12))
  | 0x11 => do must (below w 16 = 0); return .zre (← asP (field w 20)) (← asZ (field w 16))
  | 0x12 => do must (below w 16 = 0); return .zim (← asP (field w 20)) (← asZ (field w 16))
  | 0x13 => do must (below w 12 = 0); return .zld (← asZ (field w 20)) (← asBank (field w 16)) (← asP (field w 12))
  | 0x14 => do must (below w 12 = 0); return .zst (← asBank (field w 20)) (← asP (field w 16)) (← asZ (field w 12))
  | 0x15 => do must (below w 12 = 0); return .zadd (← asZ (field w 20)) (← asZ (field w 16)) (← asZ (field w 12))
  | 0x16 => do must (below w 12 = 0); return .zsub (← asZ (field w 20)) (← asZ (field w 16)) (← asZ (field w 12))
  | 0x17 => do must (below w 12 = 0); return .zmul (← asZ (field w 20)) (← asZ (field w 16)) (← asZ (field w 12))
  | 0x18 => do must (below w 12 = 0); return .zdiv (← asZ (field w 20)) (← asZ (field w 16)) (← asZ (field w 12))
  | 0x19 => do must (below w 12 = 0); return .zdivs (← asZ (field w 20)) (← asZ (field w 16)) (← asP (field w 12))
  | 0x1A => do must (below w 16 = 0); return .zmag (← asP (field w 20)) (← asZ (field w 16))
  | 0x1B => do must (below w 16 = 0); return .zphase (← asP (field w 20)) (← asZ (field w 16))
  | 0x1C => do must (below w 16 = 0); return .znorm (← asZ (field w 20)) (← asZ (field w 16))
  | 0x1D => do must (below w 16 = 0); return .zisz (← asP (field w 20)) (← asZ (field w 16))
  | 0x1E => do must (below w 16 = 0); return .zconj (← asZ (field w 20)) (← asZ (field w 16))
  -- 0x2_: FFT engine (42)
  | 0x20 => do must (below w 20 = 0); return .bitrev (← asBank (field w 20))
  | 0x21 => do must (below w 16 = 0); return .bfly (← asBank (field w 20)) (← asDir (field w 16))
  | 0x22 => do must (below w 20 = 0); return .fft (← asBank (field w 20))
  | 0x23 => do must (below w 20 = 0); return .ifft (← asBank (field w 20))
  | 0x24 => do must (below w 8 = 0); return .twid (← asZ (field w 20)) (← asDir (field w 16)) (← asP (field w 12)) (← asP (field w 8))
  -- 0x3_: real-signal adapter (43)
  | 0x30 => do must (below w 12 = 0); return .lift (← asBank (field w 20)) (← asBank (field w 16)) (← asP (field w 12))
  | 0x31 => do must (below w 12 = 0); return .rfft (← asBank (field w 20)) (← asBank (field w 16)) (← asP (field w 12))
  | 0x32 => do must (below w 4 = 0); return .rfftg (← asBank (field w 20)) (← asBank (field w 16)) (← asBank (field w 12)) (← asP (field w 8)) (← asP (field w 4))
  | 0x33 => do must (below w 16 = 0); return .realp (← asBank (field w 20)) (← asBank (field w 16))
  -- 0x4_: bandpass (44)
  | 0x40 => do must (below w 4 = 0); must (field w 20 ≤ 12); return .bpedge (← asP (field w 20)) (← asP (field w 16)) (← asP (field w 12)) (← asP (field w 8)) (← asP (field w 4))
  | 0x41 => do must (below w 16 = 0); must (field w 16 ≤ 14); return .bpmask (← asBank (field w 20)) (← asP (field w 16))
  | 0x42 => do must (below w 8 = 0); return .bpf (← asBank (field w 20)) (← asP (field w 16)) (← asP (field w 12)) (← asP (field w 8))
  -- 0x5_: convolution (45)
  | 0x50 => do must (below w 16 = 0); return .cmulv (← asBank (field w 20)) (← asBank (field w 16))
  | 0x51 => do return .conv (← asBank (field w 20)) (← asBank (field w 16)) (← asBank (field w 12)) (← asBank (field w 8)) (← asBank (field w 4)) (← asP (field w 0))
  -- 0x6_: cross-correlation (46)
  | 0x60 => do must (below w 20 = 0); return .conjv (← asBank (field w 20))
  | 0x61 => do must (below w 20 = 0); return .whiten (← asBank (field w 20))
  | 0x62 => do must (below w 12 = 0); return .xcinit (← asBank (field w 20)) (← asBank (field w 16)) (← asP (field w 12))
  | 0x63 => do must (below w 12 = 0); return .xcorr (← asBank (field w 20)) (← asBank (field w 16)) (← asBank (field w 12))
  -- 0x7_: resampling (47)
  | 0x70 => do must (below w 12 = 0); return .zstuff (← asBank (field w 20)) (← asBank (field w 16)) (← asP (field w 12))
  | 0x71 => do must (below w 8 = 0); return .decim (← asBank (field w 20)) (← asBank (field w 16)) (← asP (field w 12)) (← asP (field w 8))
  | 0x72 => do must (below w 4 = 0); must (field w 4 ≤ 11); return .resamp (← asBank (field w 20)) (← asBank (field w 16)) (← asBank (field w 12)) (← asBank (field w 8)) (← asP (field w 4))
  -- 0x8_: Hilbert (48)
  | 0x80 => do must (below w 20 = 0); return .hrot (← asBank (field w 20))
  | 0x81 => do must (below w 12 = 0); return .hilb (← asBank (field w 20)) (← asBank (field w 16)) (← asP (field w 12))
  -- 0x9_: Walsh (49)
  | 0x90 => do must (below w 20 = 0); return .words (← asP (field w 20))
  | 0x91 => do must (below w 12 = 0); return .wget (← asP (field w 20)) (← asP (field w 16)) (← asP (field w 12))
  | 0x92 => do must (below w 24 = 0); return .wfill
  | _ => none

/-! ## The encoder -/

/-- A format R word (R101): opcode and six 4-bit fields. -/
def wordR (op a b c d e f : Nat) : Word :=
  BitVec.ofNat 32 (op * 2 ^ 24 + a * 2 ^ 20 + b * 2 ^ 16 + c * 2 ^ 12 + d * 2 ^ 8 + e * 2 ^ 4 + f)

/-- A format I word (R102): opcode, register, `0000`, 16-bit immediate. -/
def wordI (op a : Nat) (imm : BitVec 16) : Word := BitVec.ofNat 32 (op * 2 ^ 24 + a * 2 ^ 20 + imm.toNat)

/-- The word of a command (R101, R102, R106). -/
def encode : Instr → Word
  -- 0x0_: sequencer and moves (spec file 40)
  | .nop => wordR 0x01 0 0 0 0 0 0
  | .halt => wordR 0x02 0 0 0 0 0 0
  | .setlo pd imm => wordI 0x03 pd imm
  | .sethi pd imm => wordI 0x04 pd imm
  | .movp pd ps => wordR 0x05 pd ps 0 0 0 0
  | .ccopy cd cs => wordR 0x06 cd cs 0 0 0 0
  | .rcopy rd rs => wordR 0x07 rd rs 0 0 0 0
  | .czero cd pn => wordR 0x08 cd pn 0 0 0 0
  | .rzero rd pn => wordR 0x09 rd pn 0 0 0 0
  | .rld pd rs pi => wordR 0x0A pd rs pi 0 0 0
  | .rst rd pi ps => wordR 0x0B rd pi ps 0 0 0
  -- 0x1_: complex value type (41)
  | .zmk zd pa pb => wordR 0x10 zd pa pb 0 0 0
  | .zre pd zs => wordR 0x11 pd zs 0 0 0 0
  | .zim pd zs => wordR 0x12 pd zs 0 0 0 0
  | .zld zd cs pi => wordR 0x13 zd cs pi 0 0 0
  | .zst cd pi zs => wordR 0x14 cd pi zs 0 0 0
  | .zadd zd za zb => wordR 0x15 zd za zb 0 0 0
  | .zsub zd za zb => wordR 0x16 zd za zb 0 0 0
  | .zmul zd za zb => wordR 0x17 zd za zb 0 0 0
  | .zdiv zd za zb => wordR 0x18 zd za zb 0 0 0
  | .zdivs zd za ps => wordR 0x19 zd za ps 0 0 0
  | .zmag pd zs => wordR 0x1A pd zs 0 0 0 0
  | .zphase pd zs => wordR 0x1B pd zs 0 0 0 0
  | .znorm zd zs => wordR 0x1C zd zs 0 0 0 0
  | .zisz pd zs => wordR 0x1D pd zs 0 0 0 0
  | .zconj zd zs => wordR 0x1E zd zs 0 0 0 0
  -- 0x2_: FFT engine (42)
  | .bitrev cb => wordR 0x20 cb 0 0 0 0 0
  | .bfly cb dir => wordR 0x21 cb dir.code 0 0 0 0
  | .fft cb => wordR 0x22 cb 0 0 0 0 0
  | .ifft cb => wordR 0x23 cb 0 0 0 0 0
  | .twid zd dir pn pk => wordR 0x24 zd dir.code pn pk 0 0
  -- 0x3_: real-signal adapter (43)
  | .lift cd rs ps => wordR 0x30 cd rs ps 0 0 0
  | .rfft cd rs ps => wordR 0x31 cd rs ps 0 0 0
  | .rfftg cd rs cs pb pg => wordR 0x32 cd rs cs pb pg 0
  | .realp rd cs => wordR 0x33 rd cs 0 0 0 0
  -- 0x4_: bandpass (44)
  | .bpedge pd pn pfs pf0 pbw => wordR 0x40 pd pn pfs pf0 pbw 0
  | .bpmask cb pi => wordR 0x41 cb pi 0 0 0 0
  | .bpf cb pfs pf0 pbw => wordR 0x42 cb pfs pf0 pbw 0 0
  -- 0x5_: convolution (45)
  | .cmulv cd cs => wordR 0x50 cd cs 0 0 0 0
  | .conv rd ra rb ca cb ps => wordR 0x51 rd ra rb ca cb ps
  -- 0x6_: cross-correlation (46)
  | .conjv cb => wordR 0x60 cb 0 0 0 0 0
  | .whiten cb => wordR 0x61 cb 0 0 0 0 0
  | .xcinit cf rs ps => wordR 0x62 cf rs ps 0 0 0
  | .xcorr rsig cf cw => wordR 0x63 rsig cf cw 0 0 0
  -- 0x7_: resampling (47)
  | .zstuff cd cs pt => wordR 0x70 cd cs pt 0 0 0
  | .decim rd cs pstep pn => wordR 0x71 rd cs pstep pn 0 0
  | .resamp rd rs ca cb pbase => wordR 0x72 rd rs ca cb pbase 0
  -- 0x8_: Hilbert (48)
  | .hrot cb => wordR 0x80 cb 0 0 0 0 0
  | .hilb cd rs pn => wordR 0x81 cd rs pn 0 0 0
  -- 0x9_: Walsh (49)
  | .words pn => wordR 0x90 pn 0 0 0 0 0
  | .wget pd pi pj => wordR 0x91 pd pi pj 0 0 0
  | .wfill => wordR 0x92 0 0 0 0 0 0

/-! ## The opcode table (R106) -/

/-- The mnemonic of a command, as the table spells it. -/
def Instr.mnemonic : Instr → String
  | .nop => "NOP"
  | .halt => "HALT"
  | .setlo _ _ => "SETLO"
  | .sethi _ _ => "SETHI"
  | .movp _ _ => "MOVP"
  | .ccopy _ _ => "CCOPY"
  | .rcopy _ _ => "RCOPY"
  | .czero _ _ => "CZERO"
  | .rzero _ _ => "RZERO"
  | .rld _ _ _ => "RLD"
  | .rst _ _ _ => "RST"
  | .zmk _ _ _ => "ZMK"
  | .zre _ _ => "ZRE"
  | .zim _ _ => "ZIM"
  | .zld _ _ _ => "ZLD"
  | .zst _ _ _ => "ZST"
  | .zadd _ _ _ => "ZADD"
  | .zsub _ _ _ => "ZSUB"
  | .zmul _ _ _ => "ZMUL"
  | .zdiv _ _ _ => "ZDIV"
  | .zdivs _ _ _ => "ZDIVS"
  | .zmag _ _ => "ZMAG"
  | .zphase _ _ => "ZPHASE"
  | .znorm _ _ => "ZNORM"
  | .zisz _ _ => "ZISZ"
  | .zconj _ _ => "ZCONJ"
  | .bitrev _ => "BITREV"
  | .bfly _ _ => "BFLY"
  | .fft _ => "FFT"
  | .ifft _ => "IFFT"
  | .twid _ _ _ _ => "TWID"
  | .lift _ _ _ => "LIFT"
  | .rfft _ _ _ => "RFFT"
  | .rfftg _ _ _ _ _ => "RFFTG"
  | .realp _ _ => "REALP"
  | .bpedge _ _ _ _ _ => "BPEDGE"
  | .bpmask _ _ => "BPMASK"
  | .bpf _ _ _ _ => "BPF"
  | .cmulv _ _ => "CMULV"
  | .conv _ _ _ _ _ _ => "CONV"
  | .conjv _ => "CONJV"
  | .whiten _ => "WHITEN"
  | .xcinit _ _ _ => "XCINIT"
  | .xcorr _ _ _ => "XCORR"
  | .zstuff _ _ _ => "ZSTUFF"
  | .decim _ _ _ _ => "DECIM"
  | .resamp _ _ _ _ _ => "RESAMP"
  | .hrot _ => "HROT"
  | .hilb _ _ _ => "HILB"
  | .words _ => "WORDS"
  | .wget _ _ _ => "WGET"
  | .wfill => "WFILL"

/-- A row of R106: mnemonic, mask, match, and, for the three block commands, the field and the largest value that the
constraint of R103 allows it. -/
structure OpRow where
  mnemonic : String
  mask     : Word
  pattern  : Word
  block    : Option (Nat × Nat)
  deriving DecidableEq, Repr

/-- "A word `W` is this command exactly when `W & mask = match` (and, for the three block commands, the constraint of
rule R103 holds)" (R106). -/
def OpRow.matches (row : OpRow) (w : Word) : Bool :=
  w &&& row.mask == row.pattern &&
    match row.block with
    | none => true
    | some (lo, top) => decide (field w lo ≤ top)

/-- The 52 rows of R106. -/
def opcodeTable : List OpRow :=
  [⟨"NOP", 0xFFFFFFFF#32, 0x01000000#32, none⟩,
   ⟨"HALT", 0xFFFFFFFF#32, 0x02000000#32, none⟩,
   ⟨"SETLO", 0xFF0F0000#32, 0x03000000#32, none⟩,
   ⟨"SETHI", 0xFF0F0000#32, 0x04000000#32, none⟩,
   ⟨"MOVP", 0xFF00FFFF#32, 0x05000000#32, none⟩,
   ⟨"CCOPY", 0xFFCCFFFF#32, 0x06000000#32, none⟩,
   ⟨"RCOPY", 0xFFCCFFFF#32, 0x07000000#32, none⟩,
   ⟨"CZERO", 0xFFC0FFFF#32, 0x08000000#32, none⟩,
   ⟨"RZERO", 0xFFC0FFFF#32, 0x09000000#32, none⟩,
   ⟨"RLD", 0xFF0C0FFF#32, 0x0A000000#32, none⟩,
   ⟨"RST", 0xFFC00FFF#32, 0x0B000000#32, none⟩] ++
  [⟨"ZMK", 0xFF800FFF#32, 0x10000000#32, none⟩,
   ⟨"ZRE", 0xFF08FFFF#32, 0x11000000#32, none⟩,
   ⟨"ZIM", 0xFF08FFFF#32, 0x12000000#32, none⟩,
   ⟨"ZLD", 0xFF8C0FFF#32, 0x13000000#32, none⟩,
   ⟨"ZST", 0xFFC08FFF#32, 0x14000000#32, none⟩,
   ⟨"ZADD", 0xFF888FFF#32, 0x15000000#32, none⟩,
   ⟨"ZSUB", 0xFF888FFF#32, 0x16000000#32, none⟩,
   ⟨"ZMUL", 0xFF888FFF#32, 0x17000000#32, none⟩,
   ⟨"ZDIV", 0xFF888FFF#32, 0x18000000#32, none⟩,
   ⟨"ZDIVS", 0xFF880FFF#32, 0x19000000#32, none⟩,
   ⟨"ZMAG", 0xFF08FFFF#32, 0x1A000000#32, none⟩,
   ⟨"ZPHASE", 0xFF08FFFF#32, 0x1B000000#32, none⟩,
   ⟨"ZNORM", 0xFF88FFFF#32, 0x1C000000#32, none⟩,
   ⟨"ZISZ", 0xFF08FFFF#32, 0x1D000000#32, none⟩,
   ⟨"ZCONJ", 0xFF88FFFF#32, 0x1E000000#32, none⟩] ++
  [⟨"BITREV", 0xFFCFFFFF#32, 0x20000000#32, none⟩,
   ⟨"BFLY", 0xFFCEFFFF#32, 0x21000000#32, none⟩,
   ⟨"FFT", 0xFFCFFFFF#32, 0x22000000#32, none⟩,
   ⟨"IFFT", 0xFFCFFFFF#32, 0x23000000#32, none⟩,
   ⟨"TWID", 0xFF8E00FF#32, 0x24000000#32, none⟩] ++
  [⟨"LIFT", 0xFFCC0FFF#32, 0x30000000#32, none⟩,
   ⟨"RFFT", 0xFFCC0FFF#32, 0x31000000#32, none⟩,
   ⟨"RFFTG", 0xFFCCC00F#32, 0x32000000#32, none⟩,
   ⟨"REALP", 0xFFCCFFFF#32, 0x33000000#32, none⟩] ++
  [⟨"BPEDGE", 0xFF00000F#32, 0x40000000#32, some (20, 12)⟩,
   ⟨"BPMASK", 0xFFC0FFFF#32, 0x41000000#32, some (16, 14)⟩,
   ⟨"BPF", 0xFFC000FF#32, 0x42000000#32, none⟩] ++
  [⟨"CMULV", 0xFFCCFFFF#32, 0x50000000#32, none⟩,
   ⟨"CONV", 0xFFCCCCC0#32, 0x51000000#32, none⟩] ++
  [⟨"CONJV", 0xFFCFFFFF#32, 0x60000000#32, none⟩,
   ⟨"WHITEN", 0xFFCFFFFF#32, 0x61000000#32, none⟩,
   ⟨"XCINIT", 0xFFCC0FFF#32, 0x62000000#32, none⟩,
   ⟨"XCORR", 0xFFCCCFFF#32, 0x63000000#32, none⟩] ++
  [⟨"ZSTUFF", 0xFFCC0FFF#32, 0x70000000#32, none⟩,
   ⟨"DECIM", 0xFFCC00FF#32, 0x71000000#32, none⟩,
   ⟨"RESAMP", 0xFFCCCC0F#32, 0x72000000#32, some (4, 11)⟩] ++
  [⟨"HROT", 0xFFCFFFFF#32, 0x80000000#32, none⟩,
   ⟨"HILB", 0xFFCC0FFF#32, 0x81000000#32, none⟩] ++
  [⟨"WORDS", 0xFF0FFFFF#32, 0x90000000#32, none⟩,
   ⟨"WGET", 0xFF000FFF#32, 0x91000000#32, none⟩,
   ⟨"WFILL", 0xFFFFFFFF#32, 0x92000000#32, none⟩]

/-! ## The host's entry point -/

/-- The command the decoder reads from a word whose bits are `w`. Every row of the table has 32 bits, the whole
command (R100), so there is one word and no byte order ("`CM[a]` is a 32-bit number", 20_memory R72). -/
def decodeTableWord (nbits w : Nat) : Option Instr := decode (BitVec.ofNat 32 (w % 2 ^ nbits))

end Sys2Proof
end

