-- ==== Sys2Proof/Machine/State.lean ====
section
/-! DEFINITION. The machine's state as 10_state R30 lists it, the reasons a step can stop, and the state after reset
(R60). -/

namespace Sys2Proof.Machine

open Sys2Proof

/-- A sparse table: keys strictly rising; a key that is not listed has no value of its own. -/
abbrev Sparse (α : Type) := List (Nat × α)

/-- A memory of 32-bit words (20_memory R70): the words it is known to hold, by index, and the number of the draw that
its other words, whose contents are unspecified, belong to (10_state R46, R47). Log entries 2 and 3. -/
structure Mem where
  cells : Sparse Word
  draw  : Nat
  deriving DecidableEq, Repr

/-- A sample bank with its length register (10_state R41, R44). A real bank's sample `i` is word `i`; a complex bank's
sample `i` is the words `2i` (re) and `2i + 1` (im), as the host map lays them out (20_memory R81). -/
structure Bank where
  len : Nat
  mem : Mem
  deriving DecidableEq, Repr

/-- `STATE`, `STATUS[1:0]` (10_state R36). -/
inductive RunState where
  | idle
  | run
  | halted
  | fault
  deriving DecidableEq, Repr

/-- The eleven causes of 60_exceptions R351, in the order of their codes 1 to 11. -/
inductive Cause where
  | illegalCmd
  | pcRange
  | notPow2
  | bounds
  | lenMismatch
  | bpWidth
  | bpNyquist
  | divZero
  | aliased
  | param
  | walshState
  deriving DecidableEq, Repr

/-- An entry `+1` or `-1` of the Walsh table (49_walsh R330). -/
inductive Sign where
  | pos
  | neg
  deriving DecidableEq, Repr

/-- What the host can do to the machine (20_memory R80, 70_reset_and_hazards R391). -/
inductive HostMove where
  /-- `MemRead(addr, 4)` of a host word. -/
  | read (addr : Nat)
  /-- `MemWrite(addr, 4, v)` of a host word. -/
  | write (addr : Nat) (v : Word)
  /-- A read by a byte-addressed host (R72, R73). -/
  | byteRead (byteAddr size : Nat)
  /-- A write by a byte-addressed host (R72, R73): the bytes, the one for the lowest byte address first. -/
  | byteWrite (byteAddr : Nat) (bytes : List (BitVec 8))
  /-- The reset input (R391 (b)). -/
  | resetInput
  deriving DecidableEq, Repr

/-- Who acts in a step: the engine, or the host with one move. Log entry 8. -/
inductive HostTurn where
  | engine
  | move (m : HostMove)
  deriving DecidableEq, Repr

/-- The whole state of SPSE (R30), under the spec's own names; after it, the model's own fields `cfg`, `host`,
`hostGot` (and `Mem.draw` inside the memories). -/
structure State where
  P      : Vector Word 16
  pc     : Nat
  Z      : Vector Cplx 8
  IE     : Bool
  STATE  : RunState
  /-- `none`: no fault is recorded, the register reads 0 (R38). -/
  FCAUSE : Option Cause
  FPC    : Nat
  FINFO  : Word
  /-- `RB[r]` with `RLEN[r]`. -/
  RB     : Vector Bank 4
  /-- `CB[b]` with `CLEN[b]`. -/
  CB     : Vector Bank 4
  CM     : Mem
  WORD   : Nat
  /-- `WT[i][j]` under the key `i*WDIM + j`; an unlisted key is an unset cell (R49). -/
  WT     : Sparse Sign
  /-- The parameters of 00_scope R7; no step changes them (log entry 1). -/
  cfg    : Config.Params
  /-- The turns to come, the first one next; when the list is empty the engine acts (log entry 8). -/
  host   : List HostTurn
  /-- What the host's latest `MemRead` returned (log entry 8). -/
  hostGot : Option Word
  deriving DecidableEq, Repr

/-- Why the model stops. No command stops: every fault of the spec is a state the machine goes on in (log entry 11). -/
inductive Fault where
  /-- Raised by a host move to a word index of `2^30` or more: "`addr` is a *word* index, `0 <= addr < 2^30`"
  (20_memory R80), so there is no such address. Safe: no claim holds of what such a move does. -/
  | noSuchHostWord (addr : Nat)
  deriving DecidableEq, Repr

/-- Why the model refuses to go on. -/
inductive Refusal where
  /-- Raised by `exec` for a command that has no meaning yet. Safe. -/
  | notModelled (mnemonic : String)
  /-- Raised by a host move that R82 gives the host no right to while the engine runs: "a model should give the host
  *no move* for those dropped and unspecified accesses" (U9). Safe: nothing is claimed of a host that makes it. -/
  | hostMoveWhileRunning (addr : Nat)
  /-- Raised by a byte-addressed host access that is not an aligned word: "Any other access (misaligned, or of 1, 2 or
  8 bytes) is *refused*" (R73, U10). Safe. -/
  | hostAccessShape (byteAddr size : Nat)
  deriving DecidableEq, Repr

/-- A bank after power-on: length 0, every word unspecified (R60). -/
def Bank.reset : Bank := { len := 0, mem := { cells := [], draw := 0 } }

/-- The state after power-on with given parameters (R60). -/
def State.resetWith (cfg : Config.Params) : State where
  P := Vector.replicate 16 0#32
  pc := 0
  Z := Vector.replicate 8 Cplx.zero
  IE := false
  STATE := .idle
  FCAUSE := none
  FPC := 0
  FINFO := 0#32
  RB := Vector.replicate 4 Bank.reset
  CB := Vector.replicate 4 Bank.reset
  CM := { cells := [], draw := 0 }
  WORD := 0
  WT := []
  cfg := cfg
  host := []
  hostGot := none

/-- The machine right after reset (R60, R390), with the suggested parameters (log entry 1). -/
def State.reset : State := State.resetWith Config.Params.suggested

end Sys2Proof.Machine
end

