-- ==== Sys2Proof/Machine/Ops.lean ====
section
/-! DEFINITION. The named operations over memories, banks and registers, the fault entry every command shares
(60_exceptions R370) with its end, the clearing of the record by the host (R372), and the reset (70_reset_and_hazards
R390). -/

namespace Sys2Proof.Machine

open Sys2Proof

/-! ## Sparse tables -/

namespace Sparse

variable {α : Type}

/-- The value listed under a key. -/
def lookup : Sparse α → Nat → Option α
  | [], _ => none
  | (k, v) :: t, i => if k = i then some v else lookup t i

/-- The table with a value put under a key, in the key's place. -/
def put : Sparse α → Nat → α → Sparse α
  | [], i, v => [(i, v)]
  | (k, w) :: t, i, v =>
    if i < k then (i, v) :: (k, w) :: t else if i = k then (i, v) :: t else (k, w) :: put t i v

/-- Values listed under the keys `k, k+1, ...`. -/
def listed : Nat → List α → Sparse α
  | _, [] => []
  | k, v :: vs => (k, v) :: listed (k + 1) vs

/-- The entries at keys `n` and above. -/
def atLeast (n : Nat) (t : Sparse α) : Sparse α := t.filter fun c => decide (n ≤ c.1)

/-- The canonical form: keys strictly rising from `lo` on, and below `hi`. -/
def risingFrom : Nat → Nat → Sparse α → Bool
  | _, _, [] => true
  | lo, hi, (k, _) :: t => decide (lo ≤ k) && decide (k < hi) && risingFrom (k + 1) hi t

end Sparse

/-! ## Memories -/

namespace Mem

/-- The canonical form of a memory of `size` words (log entry 3). -/
def wf (m : Mem) (size : Nat) : Bool := Sparse.risingFrom 0 size m.cells

/-- The word at an index: the one listed, or, where the contents are unspecified, the free value of that location in
the current draw (10_state R46, R47; log entry 2). -/
def read (g : Config.Region) (m : Mem) (i : Nat) : Word := (Sparse.lookup m.cells i).getD (Config.freeWord g m.draw i)

/-- One word written. -/
def write (m : Mem) (i : Nat) (v : Word) : Mem := { m with cells := Sparse.put m.cells i v }

/-- A new content from index 0 on; every word beyond it is unspecified from now on (R46), a new draw. -/
def fresh (m : Mem) (ws : List Word) : Mem := { cells := Sparse.listed 0 ws, draw := m.draw + 1 }

/-- The words from index 0 on overwritten; every word beyond them stays. -/
def overwrite (m : Mem) (ws : List Word) : Mem :=
  { m with cells := Sparse.listed 0 ws ++ Sparse.atLeast ws.length m.cells }

end Mem

/-- A buffer of complex samples as the words of its bank: `re` then `im` (10_state R44, 20_memory R81). -/
def cplxWords (xs : List Cplx) : List Word := xs.flatMap fun z => [z.re, z.im]

/-! ## Registers and banks of a state -/

namespace State

def getP (s : State) (i : Fin 16) : Word := s.P[i]

def setP (s : State) (i : Fin 16) (v : Word) : State := { s with P := s.P.set i v }

def getZ (s : State) (i : Fin 8) : Cplx := s.Z[i]

/-- "a write replaces both components together" (10_state R34). -/
def setZ (s : State) (i : Fin 8) (v : Cplx) : State := { s with Z := s.Z.set i v }

/-- `CAP`. -/
def cap (s : State) : Nat := s.cfg.cap

/-- `RLEN[r]`. -/
def rlen (s : State) (r : Fin 4) : Nat := s.RB[r].len

/-- `CLEN[b]`. -/
def clen (s : State) (b : Fin 4) : Nat := s.CB[b].len

/-- Word `i` of real bank `r`: the sample `RB[r][i]`. -/
def readReal (s : State) (r : Fin 4) (i : Nat) : Word := s.RB[r].mem.read (.real r) i

/-- Word `i` of complex bank `b`. -/
def readCplxWord (s : State) (b : Fin 4) (i : Nat) : Word := s.CB[b].mem.read (.cplx b) i

/-- The sample `CB[b][i]`. -/
def readCplx (s : State) (b : Fin 4) (i : Nat) : Cplx := ⟨s.readCplxWord b (2 * i), s.readCplxWord b (2 * i + 1)⟩

/-- The samples of real bank `r`: `RB[r][0] .. RB[r][RLEN[r]-1]` (10_state R41). -/
def realBuf (s : State) (r : Fin 4) : List F32 := (List.range (s.rlen r)).map (s.readReal r)

/-- The samples of complex bank `b`: `CB[b][0] .. CB[b][CLEN[b]-1]` (10_state R44). -/
def cplxBuf (s : State) (b : Fin 4) : List Cplx := (List.range (s.clen b)).map (s.readCplx b)

/-- A command that sets `RLEN[r]`: the bank holds exactly these samples, what lies beyond is unspecified (R46). -/
def setRealBuf (s : State) (r : Fin 4) (xs : List F32) : State :=
  { s with RB := s.RB.set r { len := xs.length, mem := s.RB[r].mem.fresh xs } }

/-- A command that sets `CLEN[b]`. -/
def setCplxBuf (s : State) (b : Fin 4) (xs : List Cplx) : State :=
  { s with CB := s.CB.set b { len := xs.length, mem := s.CB[b].mem.fresh (cplxWords xs) } }

/-- A command that overwrites the samples of real bank `r` and does not set its length (log entry 13). -/
def updRealBuf (s : State) (r : Fin 4) (xs : List F32) : State :=
  { s with RB := s.RB.set r { s.RB[r] with mem := s.RB[r].mem.overwrite xs } }

/-- A command that overwrites the samples of complex bank `b` in place. -/
def updCplxBuf (s : State) (b : Fin 4) (xs : List Cplx) : State :=
  { s with CB := s.CB.set b { s.CB[b] with mem := s.CB[b].mem.overwrite (cplxWords xs) } }

/-- `RB[r][i] <- v`. -/
def writeReal (s : State) (r : Fin 4) (i : Nat) (v : F32) : State :=
  { s with RB := s.RB.set r { s.RB[r] with mem := s.RB[r].mem.write i v } }

/-- Word `i` of complex bank `b` written. -/
def writeCplxWord (s : State) (b : Fin 4) (i : Nat) (v : Word) : State :=
  { s with CB := s.CB.set b { s.CB[b] with mem := s.CB[b].mem.write i v } }

/-- `CB[b][i] <- z`: "a whole complex sample (both components), never part of one" (20_memory R71). -/
def writeCplx (s : State) (b : Fin 4) (i : Nat) (z : Cplx) : State :=
  (s.writeCplxWord b (2 * i) z.re).writeCplxWord b (2 * i + 1) z.im

/-- `CM[a]`. -/
def readCM (s : State) (a : Nat) : Word := s.CM.read .command a

/-! ## Ending a command, and taking a fault -/

/-- `pc <- pc + 1` (R32, R130). -/
def advance (s : State) : State := { s with pc := s.pc + 1 }

/-- FAULT ENTRY (60_exceptions R370): `FCAUSE <- code(F)`, `FPC <- pc`, `FINFO <- min(v, 0xFFFFFFFF)`,
`STATE <- FAULT`. "Nothing else changes". -/
def takeFault (s : State) (c : Cause) (v : Nat) : State :=
  { s with FCAUSE := some c, FPC := s.pc, FINFO := BitVec.ofNat 32 (min v 0xFFFFFFFF), STATE := .fault }

/-- The end of a fault, by the host's `CLRF` (60_exceptions R372, 20_memory R84 (3)): `STATE <- IDLE` and the record
cleared. -/
def clearFault (s : State) : State := { s with STATE := .idle, FCAUSE := none, FPC := 0, FINFO := 0#32 }

end State

/-- What `raise F(info)` names (00_scope R11). -/
abbrev Raise := Cause × Nat

/-- A check of a command: `raise` where it fails. -/
def require (ok : Bool) (c : Cause) (v : Nat) : Except Raise Unit := if ok then .ok () else .error (c, v)

/-- How a command ends that started in `s`: with all its effects and `pc + 1`, or, where one of its checks raised, with
the fault entry from `s` and no effect (R130, 60_exceptions R371). -/
def finish (s : State) (r : Except Raise State) : Host.Outcome State Fault Refusal :=
  match r with
  | .ok t => .next t.advance
  | .error (c, v) => .next (s.takeFault c v)

/-- How a command without checks ends. -/
def done (t : State) : Host.Outcome State Fault Refusal := .next t.advance

/-! ## Reset -/

/-- A bank after a reset that happens in a running machine: as `Bank.reset`, a new draw. -/
def Bank.cleared (b : Bank) : Bank := { len := 0, mem := b.mem.fresh [] }

/-- A reset (R390, R391): the state of 10_state R60, with every sample and command word drawn anew; `IE` is `0`, or the
bit written with `SRST`. The parameters and the host's side are not part of the reset. -/
def State.restart (s : State) (ie : Bool) : State :=
  { State.resetWith s.cfg with
    IE := ie
    RB := s.RB.map Bank.cleared
    CB := s.CB.map Bank.cleared
    CM := s.CM.fresh []
    host := s.host
    hostGot := s.hostGot }

end Sys2Proof.Machine
end

