-- ==== Sys2Proof/Machine/Twiddle.lean ====
section
/-! DEFINITION. The twiddle ROM `TW(dir, N, k)` (42_fft_engine R210, R211), and the index functions `ispow2` and
`rev_n` of 00_scope R10. -/

namespace Sys2Proof

/-- "`ispow2(n)` is true exactly when `n = 2^k` for a natural `k`" (R10). -/
def ispow2 (n : Nat) : Bool := n != 0 && 2 ^ Nat.log2 n == n

/-- `rev_n(i)`: the `n`-bit spelling of `i` read backwards (R10). -/
def rev : Nat → Nat → Nat
  | 0, _ => 0
  | n + 1, i => i % 2 * 2 ^ n + rev n (i / 2)

namespace Twiddle

/-! The default table: the sine and cosine of an angle up to `pi/4` as fixed-point numbers with 128 fraction bits, by
their power series. Log entry 6 says how far the sums are from the exact values and why that gives the nearest
binary32. -/

/-- `pi/2 * 2^128`, rounded down. -/
def halfPiFixed : Nat := 0x1921FB54442D18469898CC51701B839A2

/-- `1` with 128 fraction bits. -/
def oneFixed : Nat := 2 ^ 128

/-- The angle `(pi/2) * (r/n)`. -/
def angle (r n : Nat) : Nat := halfPiFixed * r / n

/-- `1 - x/(c(c+1)) * (1 - x/((c+2)(c+3)) * ...)` with `k` factors, `x` the square of the angle. -/
def series (x : Nat) : Nat → Nat → Nat
  | 0, _ => oneFixed
  | k + 1, c => oneFixed - x * series x k (c + 2) / 2 ^ 128 / (c * (c + 1))

/-- `sin a = a * (1 - a²/(2·3) * (1 - a²/(4·5) * ...))`. -/
def sinFixed (a : Nat) : Nat := a * series (a * a / 2 ^ 128) 20 2 / 2 ^ 128

/-- `cos a = 1 - a²/(1·2) * (1 - a²/(3·4) * ...)`. -/
def cosFixed (a : Nat) : Nat := series (a * a / 2 ^ 128) 20 1

/-- `RN` of a fixed-point number. -/
def nearest (m : Nat) : F32 := F32.pack false (F32.roundMag m (-128))

/-- `(RN(cos), RN(sin))` of `(pi/2) * (r/n)` for `0 ≤ r < n`: past `pi/4` the two change places. -/
def firstQuadrant (r n : Nat) : F32 × F32 :=
  if 2 * r ≤ n then (nearest (cosFixed (angle r n)), nearest (sinFixed (angle r n)))
  else (nearest (sinFixed (angle (n - r) n)), nearest (cosFixed (angle (n - r) n)))

/-- `fneg`, but zeros stay `+0` (R210, 3). -/
def negNonzero (x : F32) : F32 := if F32.feq0 x then F32.zero else F32.fneg x

/-- `(RN(cos(2 pi k/n)), RN(sin(2 pi k/n)))` for `k < n`: the quarter turn `4k/n` and the angle inside it. -/
def cosSin (n k : Nat) : F32 × F32 :=
  let (c, s) := firstQuadrant (4 * k % n) n
  match 4 * k / n with
  | 0 => (c, s)
  | 1 => (negNonzero s, c)
  | 2 => (negNonzero c, negNonzero s)
  | _ => (s, negNonzero c)

/-- The default table (R210, 1 to 4). -/
def default (dir : Dir) (n k : Nat) : Cplx :=
  let (c, s) := cosSin n (k % n)
  match dir with
  | .fwd => ⟨c, negNonzero s⟩
  | .inv => ⟨c, s⟩

/-- A component of an admissible table: in `[-1, 1]`, no NaN and no infinity (R210). -/
def bounded (x : F32) : F32 := if F32.magBits x ≤ 0x3F800000 then x else F32.zero

/-- Another admissible table (R210, U6): it depends on `(dir, N, k mod N)` only, is `(1.0, +0)` at `k = 0`, and its
components lie in `[-1, 1]`; nothing else is said of it. -/
def admissible (name : Nat) (dir : Dir) (n k : Nat) : Cplx :=
  if k % n = 0 then ⟨F32.u2f 1, F32.zero⟩
  else ⟨bounded (Config.rawTwiddle name dir n (k % n)).1, bounded (Config.rawTwiddle name dir n (k % n)).2⟩

end Twiddle

/-- `TW(dir, N, k)` of the machine's ROM. -/
def TW (gen : Config.TwiddleGen) (dir : Dir) (n k : Nat) : Cplx :=
  match gen with
  | .correctlyRounded => Twiddle.default dir n k
  | .other name => Twiddle.admissible name dir n k

end Sys2Proof
end

