-- ==== Sys2Proof/Machine/Operands.lean ====
section
/-! DEFINITION. The operand forms: a `P` register read as an index or as a binary32 (10_state R31), the register blocks
(30_encoding R103, 70_reset_and_hazards R408), the bank-and-register-index addressing mode (40_sequencer_and_move R140,
R144), and the size checks that commands share. -/

namespace Sys2Proof.Machine

open Sys2Proof

namespace State

/-- "A 32-bit register read as an index is its unsigned value" (00_scope R10). -/
def idx (s : State) (i : Fin 16) : Nat := (s.getP i).toNat

/-- A register read as a binary32: the pattern, "no conversion happens on the way" (R31). -/
def real (s : State) (i : Fin 16) : F32 := s.getP i

/-- Register `base + k` of a block. The decoder keeps blocks below 16; a term of `Instr` that is not well-formed
reads 0 past `P[15]` (log entry 15). -/
def blockP (s : State) (base : Fin 16) (k : Nat) : Word :=
  if h : base.val + k < 16 then s.getP ⟨base.val + k, h⟩ else 0#32

/-- Register `base + k` of a block written; nothing past `P[15]` (log entry 15). -/
def setBlockP (s : State) (base : Fin 16) (k : Nat) (v : Word) : State :=
  if h : base.val + k < 16 then s.setP ⟨base.val + k, h⟩ v else s

end State

/-- The addressing mode of `RLD`, `RST`, `ZLD`, `ZST`: sample `P[pi]` of a bank of length `len`; "no displacement, no
scaling, no update of `pi`" (R140). -/
def elementIndex (s : State) (pi : Fin 16) (len : Nat) : Except Raise Nat := do
  let i := s.idx pi
  require (decide (i < len)) .bounds i
  return i

/-- The checks of a transform size against which a signal of length `l` is lifted: `NOT_POW2(S)`, `BOUNDS(S)`,
`BOUNDS(L)`, in this order (43_real_adapter R234). -/
def requireLift (s : State) (size l : Nat) : Except Raise Unit := do
  require (ispow2 size) .notPow2 size
  require (decide (size ≤ s.cap)) .bounds size
  require (decide (l ≤ size)) .bounds l

/-- The check of a bank named for two roles that must be distinct (60_exceptions R356). -/
def requireDistinct (a b : Fin 4) : Except Raise Unit := require (decide (a ≠ b)) .aliased a.val

/-- Sample `i` of a buffer. -/
def at_ (x : List Cplx) (i : Nat) : Cplx := x.getD i Cplx.zero

end Sys2Proof.Machine
end

