-- ==== Sys2Proof/Machine/Fft.lean ====
section
/-! DEFINITION. The FFT engine: bit-reversal network, butterfly stages, forward and inverse transform
(42_fft_engine R200 to R208), and its commands (R212 to R216). -/

namespace Sys2Proof.Machine

open Sys2Proof

/-- R202, in the form `x'[i] = x[rev_n(i)]`, with `n = log2(N)`. -/
def bitrev (x : List Cplx) : List Cplx :=
  (List.range x.length).map fun i => at_ x (rev (Nat.log2 x.length) i)

/-- One butterfly, `(a', b')` (R204 to R206): the zero-skip copies `a` into `b` and leaves `a`; otherwise
`t = b * w`, `a' = a + t`, `b' = a - t`. -/
def butterfly (w a b : Cplx) : Cplx × Cplx :=
  if ciszero b then (a, a)
  else
    let t := cmul b w
    (cadd a t, csub a t)

/-- The butterfly `(p, j)` of the stage of size `m` (R204): `a = x[p+j]`, `b = x[p+j+m]`, twiddle index `s*j` with
`s = N/(2m)`. -/
def stageButterfly (gen : Config.TwiddleGen) (dir : Dir) (m : Nat) (x : List Cplx) (p j : Nat) : Cplx × Cplx :=
  butterfly (TW gen dir x.length (x.length / (2 * m) * j)) (at_ x (p + j)) (at_ x (p + j + m))

/-- The stage of size `m` (R204), index by index: sample `i` of the block at `p` is the `a'` of butterfly `i - p` or the
`b'` of butterfly `i - p - m`. The butterflies of a stage touch disjoint pairs, so no order among them is part of it. -/
def stage (gen : Config.TwiddleGen) (dir : Dir) (m : Nat) (x : List Cplx) : List Cplx :=
  (List.range x.length).map fun i =>
    let p := i / (2 * m) * (2 * m)
    if i - p < m then (stageButterfly gen dir m x p (i - p)).1 else (stageButterfly gen dir m x p (i - p - m)).2

/-- `stages(x, dir)` (R204): the stages of size `1, 2, 4, ... < N`, in this order. -/
def stages (gen : Config.TwiddleGen) (dir : Dir) (x : List Cplx) : List Cplx :=
  (List.range (Nat.log2 x.length)).foldl (fun y k => stage gen dir (2 ^ k) y) x

/-- `fft(x) = stages(bitrev(x), fwd)` (R207). -/
def fft (gen : Config.TwiddleGen) (x : List Cplx) : List Cplx := stages gen .fwd (bitrev x)

/-- `scale(y)[i] = cdivs(y[i], u2f(N))` (R208). -/
def scale (y : List Cplx) : List Cplx := y.map fun z => cdivs z (F32.u2f y.length)

/-- `ifft(x) = scale(stages(bitrev(x), inv))` (R208). -/
def ifft (gen : Config.TwiddleGen) (x : List Cplx) : List Cplx := scale (stages gen .inv (bitrev x))

/-- The length check of the commands that transform a bank in place (R201, 60_exceptions R353). -/
def requirePow2 (n : Nat) : Except Raise Unit := require (ispow2 n) .notPow2 n

/-- A command that replaces a bank whose length is a power of two by a function of its samples, in place. -/
def inPlace (s : State) (cb : Fin 4) (f : List Cplx → List Cplx) : Except Raise State := do
  requirePow2 (s.clen cb)
  return s.updCplxBuf cb (f (s.cplxBuf cb))

/-- `BITREV cb` (R212). -/
def execBitrev (cb : Fin 4) (s : State) : Host.Outcome State Fault Refusal := finish s (inPlace s cb bitrev)

/-- `BFLY cb, dir` (R213). -/
def execBfly (cb : Fin 4) (dir : Dir) (s : State) : Host.Outcome State Fault Refusal :=
  finish s (inPlace s cb (stages s.cfg.twiddle dir))

/-- `FFT cb` (R214). -/
def execFft (cb : Fin 4) (s : State) : Host.Outcome State Fault Refusal := finish s (inPlace s cb (fft s.cfg.twiddle))

/-- `IFFT cb` (R215). -/
def execIfft (cb : Fin 4) (s : State) : Host.Outcome State Fault Refusal :=
  finish s (inPlace s cb (ifft s.cfg.twiddle))

/-- `TWID zd, dir, pn, pk` (R216). -/
def execTwid (zd : Fin 8) (dir : Dir) (pn pk : Fin 16) (s : State) : Host.Outcome State Fault Refusal :=
  finish s do
    let n := s.idx pn
    requirePow2 n
    require (decide (n ≤ s.cap)) .bounds n
    return s.setZ zd (TW s.cfg.twiddle dir n (s.idx pk % n))

end Sys2Proof.Machine
end

