-- ==== Sys2Proof/Machine/Bandpass.lean ====
section
/-! DEFINITION. The bandpass spectral filter (44_bandpass R250 to R253) and its commands (R254 to R256). -/

namespace Sys2Proof.Machine

open Sys2Proof

/-- The two mirror indices `(i2, i3) = (N - i1 - 1, N - i0 - 1)` (R250). -/
def mirror (n i0 i1 : Nat) : Nat × Nat := (n - i1 - 1, n - i0 - 1)

/-- `f2i_trunc` of a bin position that must be a number (`PARAM` otherwise, R251, 60_exceptions R359). The position is
not negative where this is applied. -/
def binIndex (pos : F32) : Except Raise Nat :=
  match F32.f2iTrunc pos with
  | some i => .ok i.toNat
  | none => .error (.param, pos.toNat)

/-- `bpedge(N, fs, f0, bw)`: `(i0, i1)` (R251), every step one rounded operation in the order written. -/
def bpedge (n : Nat) (fs f0 bw : F32) : Except Raise (Nat × Nat) := do
  let nf := F32.u2f n
  let wb := F32.fdiv (F32.fmul bw nf) fs
  require (F32.fge wb 0x40000000#32) .bpWidth wb.toNat
  let half := F32.fmul bw 0x3F000000#32
  let lo := F32.fdiv (F32.fmul (F32.fsub f0 half) nf) fs
  let hi := F32.fdiv (F32.fmul (F32.fadd f0 half) nf) fs
  require (F32.fge lo F32.zero) .param lo.toNat
  let i1 ← binIndex hi
  let i0 ← binIndex lo
  require (decide (i1 < n / 2)) .bpNyquist i1
  return (i0, i1)

/-- Whether bin `k` lies in `[i0, i1]` or in its mirror `[i2, i3]` (R253). -/
def kept (n i0 i1 k : Nat) : Bool :=
  decide (i0 ≤ k ∧ k ≤ i1) || decide ((mirror n i0 i1).1 ≤ k ∧ k ≤ (mirror n i0 i1).2)

/-- `bpmask(x, i0, i1)` (R253): a store of `(+0, +0)` in every bin that is not kept. -/
def bpmask (i0 i1 : Nat) (x : List Cplx) : List Cplx :=
  (List.range x.length).map fun k => if kept x.length i0 i1 k then at_ x k else Cplx.zero

/-- `BPEDGE pd, pn, pfs, pf0, pbw` (R254): the sources are read before the four writes. -/
def execBpedge (pd pn pfs pf0 pbw : Fin 16) (s : State) : Host.Outcome State Fault Refusal :=
  finish s do
    let n := s.idx pn
    requirePow2 n
    require (decide (n ≤ s.cap)) .bounds n
    let (i0, i1) ← bpedge n (s.real pfs) (s.real pf0) (s.real pbw)
    let put := fun (t : State) (k i : Nat) => t.setBlockP pd k (BitVec.ofNat 32 i)
    return put (put (put (put s 0 i0) 1 i1) 2 (mirror n i0 i1).1) 3 (mirror n i0 i1).2

/-- `BPMASK cb, pi` (R255). -/
def execBpmask (cb : Fin 4) (pi : Fin 16) (s : State) : Host.Outcome State Fault Refusal :=
  finish s do
    let n := s.clen cb
    let i0 := (s.blockP pi 0).toNat
    let i1 := (s.blockP pi 1).toNat
    requirePow2 n
    require (decide (i1 < n / 2)) .bpNyquist i1
    require (decide (i0 ≤ i1)) .param i0
    return s.updCplxBuf cb (bpmask i0 i1 (s.cplxBuf cb))

/-- `BPF cb, pfs, pf0, pbw` (R256). -/
def execBpf (cb : Fin 4) (pfs pf0 pbw : Fin 16) (s : State) : Host.Outcome State Fault Refusal :=
  finish s do
    let n := s.clen cb
    requirePow2 n
    let (i0, i1) ← bpedge n (s.real pfs) (s.real pf0) (s.real pbw)
    return s.updCplxBuf cb (bpmask i0 i1 (s.cplxBuf cb))

end Sys2Proof.Machine
end

