-- ==== Sys2Proof/Machine/Flags.lean ====
section
/-! DEFINITION. SPSE has no condition codes and no floating-point flags (10_state R33): what stands here in their place
is the Boolean and sign results written to `P` registers, and the status words whose bits are functions of the state
(10_state R35 to R40, 60_exceptions R360). -/

namespace Sys2Proof.Machine

open Sys2Proof

/-- "the 32-bit integers `0x00000001`, `0x00000000`" (41_complex_alu R184). -/
def boolWord (b : Bool) : Word := if b then 1#32 else 0#32

/-- `+1` and `-1` in two's complement (49_walsh R335). -/
def signWord : Sign → Word
  | .pos => 0x00000001#32
  | .neg => 0xFFFFFFFF#32

/-- A cell of the `WT` window: "unset `0`, `+1` `0x00000001`, `-1` `0xFFFFFFFF`" (20_memory R81). -/
def cellWord : Option Sign → Word
  | none => 0#32
  | some v => signWord v

/-- The codes of 60_exceptions R351. -/
def Cause.code : Cause → Nat
  | .illegalCmd => 1
  | .pcRange => 2
  | .notPow2 => 3
  | .bounds => 4
  | .lenMismatch => 5
  | .bpWidth => 6
  | .bpNyquist => 7
  | .divZero => 8
  | .aliased => 9
  | .param => 10
  | .walshState => 11

/-- "Bits 3:0: the code of the recorded fault, `0` when none is recorded" (10_state R38). -/
def causeWord : Option Cause → Word
  | none => 0#32
  | some c => BitVec.ofNat 32 c.code

/-- `STATUS[1:0]` (10_state R36). -/
def RunState.code : RunState → Nat
  | .idle => 0
  | .run => 1
  | .halted => 2
  | .fault => 3

namespace State

/-- "`IRQ = IE and (STATE = HALTED or STATE = FAULT)`" (60_exceptions R360). -/
def irq (s : State) : Bool := s.IE && (s.STATE == .halted || s.STATE == .fault)

/-- The dimension of the current Walsh table, `2^(WORD-1)` (49_walsh R330). -/
def walshDim (s : State) : Nat := 2 ^ (s.WORD - 1)

/-- Cell `WT[i][j]`. -/
def cell (s : State) (i j : Nat) : Option Sign := Sparse.lookup s.WT (i * s.cfg.wDim + j)

/-- "1 exactly when `WORD != 0` and every cell `WT[i][j]` with `i, j < 2^(WORD-1)` is set" (R36). -/
def wfull (s : State) : Bool :=
  s.WORD != 0 &&
    (List.range s.walshDim).all fun i => (List.range s.walshDim).all fun j => (s.cell i j).isSome

/-- `STATUS`: bits 1:0 `STATE`, bit 2 `IRQ`, bit 3 `WFULL` (R36). -/
def statusWord (s : State) : Word :=
  BitVec.ofNat 32 (s.STATE.code + (if s.irq then 4 else 0) + (if s.wfull then 8 else 0))

/-- `CTRL` as read: bit 3 `IE`, every other bit 0 (R35). -/
def ctrlWord (s : State) : Word := if s.IE then 8#32 else 0#32

/-- `CAPR`: bits 4:0 `LOGCAP`, bits 12:8 `LOGCMD`, bits 20:16 `WLOGDIM` (R40). -/
def caprWord (s : State) : Word := BitVec.ofNat 32 (s.cfg.logCap + s.cfg.logCmd * 2 ^ 8 + s.cfg.wLogDim * 2 ^ 16)

end State

/-- `ID` (R40). -/
def idWord : Word := 0x53505345#32

/-- `REV` (R40). -/
def revWord : Word := 0x00010000#32

end Sys2Proof.Machine
end

