-- ==== Sys2Proof/Machine/ComplexAlu.lean ====
section
/-! DEFINITION. The commands of the complex arithmetic unit (41_complex_alu R171 to R185). -/

namespace Sys2Proof.Machine

open Sys2Proof

/-- `ZMK zd, pa, pb` (R171). -/
def execZmk (zd : Fin 8) (pa pb : Fin 16) (s : State) : Host.Outcome State Fault Refusal :=
  done (s.setZ zd ⟨s.real pa, s.real pb⟩)

/-- `ZRE pd, zs` (R172). -/
def execZre (pd : Fin 16) (zs : Fin 8) (s : State) : Host.Outcome State Fault Refusal :=
  done (s.setP pd (s.getZ zs).re)

/-- `ZIM pd, zs` (R173). -/
def execZim (pd : Fin 16) (zs : Fin 8) (s : State) : Host.Outcome State Fault Refusal :=
  done (s.setP pd (s.getZ zs).im)

/-- `ZLD zd, cs, pi` (R174). -/
def execZld (zd : Fin 8) (cs : Fin 4) (pi : Fin 16) (s : State) : Host.Outcome State Fault Refusal :=
  finish s do
    let i ← elementIndex s pi (s.clen cs)
    return s.setZ zd (s.readCplx cs i)

/-- `ZST cd, pi, zs` (R175). -/
def execZst (cd : Fin 4) (pi : Fin 16) (zs : Fin 8) (s : State) : Host.Outcome State Fault Refusal :=
  finish s do
    let i ← elementIndex s pi (s.clen cd)
    return s.writeCplx cd i (s.getZ zs)

/-- `ZADD zd, za, zb` (R176). -/
def execZadd (zd za zb : Fin 8) (s : State) : Host.Outcome State Fault Refusal :=
  done (s.setZ zd (cadd (s.getZ za) (s.getZ zb)))

/-- `ZSUB zd, za, zb` (R177). -/
def execZsub (zd za zb : Fin 8) (s : State) : Host.Outcome State Fault Refusal :=
  done (s.setZ zd (csub (s.getZ za) (s.getZ zb)))

/-- `ZMUL zd, za, zb` (R178). -/
def execZmul (zd za zb : Fin 8) (s : State) : Host.Outcome State Fault Refusal :=
  done (s.setZ zd (cmul (s.getZ za) (s.getZ zb)))

/-- `ZDIV zd, za, zb` (R179): the test is on the computed denominator; `FINFO` is the divisor's register number. -/
def execZdiv (zd za zb : Fin 8) (s : State) : Host.Outcome State Fault Refusal :=
  finish s do
    require (!F32.feq0 (cnormSq (s.getZ zb))) .divZero zb.val
    return s.setZ zd (cdiv (s.getZ za) (s.getZ zb))

/-- `ZDIVS zd, za, ps` (R180). -/
def execZdivs (zd za : Fin 8) (ps : Fin 16) (s : State) : Host.Outcome State Fault Refusal :=
  finish s do
    require (!F32.feq0 (s.real ps)) .divZero ps.val
    return s.setZ zd (cdivs (s.getZ za) (s.real ps))

/-- `ZMAG pd, zs` (R181). -/
def execZmag (pd : Fin 16) (zs : Fin 8) (s : State) : Host.Outcome State Fault Refusal :=
  done (s.setP pd (cmag (s.getZ zs)))

/-- `ZPHASE pd, zs` (R182). -/
def execZphase (pd : Fin 16) (zs : Fin 8) (s : State) : Host.Outcome State Fault Refusal :=
  done (s.setP pd (cphase (s.getZ zs)))

/-- `ZNORM zd, zs` (R183). -/
def execZnorm (zd zs : Fin 8) (s : State) : Host.Outcome State Fault Refusal := done (s.setZ zd (cnorm (s.getZ zs)))

/-- `ZISZ pd, zs` (R184). -/
def execZisz (pd : Fin 16) (zs : Fin 8) (s : State) : Host.Outcome State Fault Refusal :=
  done (s.setP pd (boolWord (ciszero (s.getZ zs))))

/-- `ZCONJ zd, zs` (R185). -/
def execZconj (zd zs : Fin 8) (s : State) : Host.Outcome State Fault Refusal := done (s.setZ zd (cconj (s.getZ zs)))

end Sys2Proof.Machine
end

