-- ==== Sys2Proof/Machine/RealAdapter.lean ====
section
/-! DEFINITION. The real-signal spectral adapter, direct and polyphase grouped (43_real_adapter R230 to R239), and its
commands (R234 to R237). -/

namespace Sys2Proof.Machine

open Sys2Proof

/-- `lift(x, S)` (R230): the samples with imaginary part `+0`, then `(+0, +0)` up to index `S - 1`. -/
def lift (x : List F32) (size : Nat) : List Cplx :=
  x.map (fun v => ⟨v, F32.zero⟩) ++ List.replicate (size - x.length) Cplx.zero

/-- `rfft(x, S) = fft(lift(x, S))` (R231). -/
def rfft (gen : Config.TwiddleGen) (x : List F32) (size : Nat) : List Cplx := fft gen (lift x size)

/-- `sub_k[r] = pad[r*G + k]` (R232 (a)). -/
def subBlock (pad : List Cplx) (b g k : Nat) : List Cplx := (List.range b).map fun r => at_ pad (r * g + k)

/-- `part_k = fft(sub_k)` (R232). -/
def part (gen : Config.TwiddleGen) (x : List F32) (b g k : Nat) : List Cplx := fft gen (subBlock (lift x (b * g)) b g k)

/-- `out[q]` with `j = q mod B` (R232): from `part_0[j]`, the terms `k = 1 .. G-1` added in ascending order, each
product rounded before it is added, twiddle first. -/
def recombine (gen : Config.TwiddleGen) (parts : List (List Cplx)) (b g q : Nat) : Cplx :=
  (List.range (g - 1)).foldl
    (fun acc i => cadd acc (cmul (TW gen .fwd (b * g) (q * (i + 1) % (b * g))) (at_ (parts.getD (i + 1) []) (q % b))))
    (at_ (parts.getD 0 []) (q % b))

/-- `part_0 .. part_{G-1}` (R232). -/
def groupParts (gen : Config.TwiddleGen) (x : List F32) (b g : Nat) : List (List Cplx) :=
  (List.range g).map (part gen x b g)

/-- `rfftg(x, B, G)` (R232), from its sub-block spectra. -/
def rfftg (gen : Config.TwiddleGen) (x : List F32) (b g : Nat) : List Cplx :=
  (List.range (b * g)).map (recombine gen (groupParts gen x b g) b g)

/-- `realp(y)[i] = y[i].re` (R239). -/
def realp (y : List Cplx) : List F32 := y.map Cplx.re

/-- `LIFT cd, rs, ps` (R234). -/
def execLift (cd rs : Fin 4) (ps : Fin 16) (s : State) : Host.Outcome State Fault Refusal :=
  finish s do
    requireLift s (s.idx ps) (s.rlen rs)
    return s.setCplxBuf cd (lift (s.realBuf rs) (s.idx ps))

/-- `RFFT cd, rs, ps` (R235). -/
def execRfft (cd rs : Fin 4) (ps : Fin 16) (s : State) : Host.Outcome State Fault Refusal :=
  finish s do
    requireLift s (s.idx ps) (s.rlen rs)
    return s.setCplxBuf cd (rfft s.cfg.twiddle (s.realBuf rs) (s.idx ps))

/-- `RFFTG cd, rs, cs, pb, pg` (R236): the scratch bank ends holding `part_k` at `k*B .. k*B + B-1`. -/
def execRfftg (cd rs cs : Fin 4) (pb pg : Fin 16) (s : State) : Host.Outcome State Fault Refusal :=
  finish s do
    requireDistinct cd cs
    let b := s.idx pb
    let g := s.idx pg
    require (ispow2 b) .notPow2 b
    require (ispow2 g) .notPow2 g
    require (decide (b * g ≤ s.cap)) .bounds (b * g)
    require (decide (s.rlen rs ≤ b * g)) .bounds (s.rlen rs)
    let x := s.realBuf rs
    return (s.setCplxBuf cs (groupParts s.cfg.twiddle x b g).flatten).setCplxBuf cd (rfftg s.cfg.twiddle x b g)

/-- `REALP rd, cs` (R237). -/
def execRealp (rd cs : Fin 4) (s : State) : Host.Outcome State Fault Refusal :=
  done (s.setRealBuf rd (realp (s.cplxBuf cs)))

end Sys2Proof.Machine
end

