-- ==== Sys2Proof/Machine/Hilbert.lean ====
section
/-! DEFINITION. The Hilbert quadrature unit (48_hilbert R320, R321, R325) and its commands (R322, R323). -/

namespace Sys2Proof.Machine

open Sys2Proof

/-- The rotation of bin `N/2`, by its class `HIL_NYQ_CLASS` (R321). -/
def rotNyquist : Config.NyqClass → Cplx → Cplx
  | .negative, z => rotn z
  | .positive, z => rotp z
  | .untouched, z => z

/-- Bin `k` of `hrot(u)` in a spectrum of length `n` (R321). -/
def rotBin (cls : Config.NyqClass) (n k : Nat) (z : Cplx) : Cplx :=
  if k = 0 then z else if k < n / 2 then rotp z else if k = n / 2 then rotNyquist cls z else rotn z

/-- `hrot(u)` (R321). -/
def hrot (cls : Config.NyqClass) (u : List Cplx) : List Cplx :=
  (List.range u.length).map fun k => rotBin cls u.length k (at_ u k)

/-- `hilbert(x, N)` (R325): the samples of `x` paired with the real part of the rotated spectrum's inverse. -/
def hilbert (gen : Config.TwiddleGen) (cls : Config.NyqClass) (x : List F32) (n : Nat) : List Cplx :=
  let w := ifft gen (hrot cls (rfft gen x n))
  (List.range x.length).map fun i => ⟨x.getD i F32.zero, (at_ w i).re⟩

/-- `HROT cb` (R322). -/
def execHrot (cb : Fin 4) (s : State) : Host.Outcome State Fault Refusal := finish s (inPlace s cb (hrot s.cfg.hilNyq))

/-- `HILB cd, rs, pn` (R323). -/
def execHilb (cd rs : Fin 4) (pn : Fin 16) (s : State) : Host.Outcome State Fault Refusal :=
  finish s do
    requireLift s (s.idx pn) (s.rlen rs)
    return s.setCplxBuf cd (hilbert s.cfg.twiddle s.cfg.hilNyq (s.realBuf rs) (s.idx pn))

end Sys2Proof.Machine
end

