-- ==== Sys2Proof/Machine/Resample.lean ====
section
/-! DEFINITION. The frequency-domain resampler (47_resample R300 to R302, R308) and its commands (R303 to R305). -/

namespace Sys2Proof.Machine

open Sys2Proof

/-- `zstuff(u, T)` (R300): the lower half at the head, the gap of `(+0, +0)`, the upper half at the tail. -/
def zstuff (u : List Cplx) (t : Nat) : List Cplx :=
  u.take (u.length / 2) ++ List.replicate (t * u.length - u.length) Cplx.zero ++ u.drop (u.length / 2)

/-- `decim(w, step, n1)` (R301). -/
def decim (w : List Cplx) (step n1 : Nat) : List F32 :=
  (List.range n1).map fun n => if n * step < w.length then (at_ w (n * step)).re else F32.zero

/-- The quotient whose nearest integer is the decimation step (R302): product first, then quotient. -/
def stepQuotient (f0 : F32) (t : Nat) (f1 : F32) : F32 := F32.fdiv (F32.fmul f0 (F32.u2f t)) f1

/-- The decimation step (R302): `PARAM` with the quotient's pattern where it is no number or rounds below 1. -/
def decimStep (q : F32) : Except Raise Nat :=
  match F32.f2iRound q with
  | some i => if 1 ≤ i then .ok i.toNat else .error (.param, q.toNat)
  | none => .error (.param, q.toNat)

/-- `ZSTUFF cd, cs, pt` (R303). -/
def execZstuff (cd cs : Fin 4) (pt : Fin 16) (s : State) : Host.Outcome State Fault Refusal :=
  finish s do
    requireDistinct cd cs
    let n0 := s.clen cs
    let t := s.idx pt
    require (ispow2 n0) .notPow2 n0
    require (ispow2 t) .notPow2 t
    require (decide (t * n0 ≤ s.cap)) .bounds (t * n0)
    require (decide (2 ≤ n0)) .param n0
    return s.setCplxBuf cd (zstuff (s.cplxBuf cs) t)

/-- `DECIM rd, cs, pstep, pn` (R304). -/
def execDecim (rd cs : Fin 4) (pstep pn : Fin 16) (s : State) : Host.Outcome State Fault Refusal :=
  finish s do
    let step := s.idx pstep
    let n1 := s.idx pn
    require (decide (n1 ≤ s.cap)) .bounds n1
    require (decide (step ≠ 0)) .param 0
    return s.setRealBuf rd (decim (s.cplxBuf cs) step n1)

/-- `RESAMP rd, rs, ca, cb, pbase` (R305): `CB[ca]` ends holding the spectrum, `CB[cb]` the interpolated signal. -/
def execResamp (rd rs ca cb : Fin 4) (pbase : Fin 16) (s : State) : Host.Outcome State Fault Refusal :=
  finish s do
    requireDistinct ca cb
    let n0 := (s.blockP pbase 0).toNat
    let n1 := (s.blockP pbase 1).toNat
    let t := (s.blockP pbase 2).toNat
    let f0 := s.blockP pbase 3
    let f1 := s.blockP pbase 4
    require (ispow2 n0) .notPow2 n0
    require (ispow2 t) .notPow2 t
    require (decide (t * n0 ≤ s.cap)) .bounds (t * n0)
    require (decide (s.rlen rs ≤ n0)) .bounds (s.rlen rs)
    require (decide (n1 ≤ s.cap)) .bounds n1
    require (decide (2 ≤ n0)) .param n0
    let step ← decimStep (stepQuotient f0 t f1)
    let a := rfft s.cfg.twiddle (s.realBuf rs) n0
    let w := ifft s.cfg.twiddle (zstuff a t)
    return ((s.setCplxBuf ca a).setCplxBuf cb w).setRealBuf rd (decim w step n1)

end Sys2Proof.Machine
end

