-- ==== Sys2Proof/Machine/Sequencer.lean ====
section
/-! DEFINITION. Sequencer, scalar, buffer-move and real element commands (40_sequencer_and_move R131 to R141). -/

namespace Sys2Proof.Machine

open Sys2Proof

/-- `NOP` (R131). -/
def execNop (s : State) : Host.Outcome State Fault Refusal := done s

/-- `HALT` (R132): `STATE <- HALTED`; `pc` keeps the index of this `HALT`. -/
def execHalt (s : State) : Host.Outcome State Fault Refusal := .next { s with STATE := .halted }

/-- `SETLO pd, imm16` (R133): bits 31:16 become 0. -/
def execSetlo (pd : Fin 16) (imm : BitVec 16) (s : State) : Host.Outcome State Fault Refusal :=
  done (s.setP pd (zext imm))

/-- `SETHI pd, imm16` (R134): bits 15:0 kept. -/
def execSethi (pd : Fin 16) (imm : BitVec 16) (s : State) : Host.Outcome State Fault Refusal :=
  done (s.setP pd (joinHalves imm (lowHalf (s.getP pd))))

/-- `MOVP pd, ps` (R135). -/
def execMovp (pd ps : Fin 16) (s : State) : Host.Outcome State Fault Refusal := done (s.setP pd (s.getP ps))

/-- `CCOPY cd, cs` (R136). "`cd = cs` changes nothing" (log entry 12). -/
def execCcopy (cd cs : Fin 4) (s : State) : Host.Outcome State Fault Refusal :=
  done (if cd = cs then s else s.setCplxBuf cd (s.cplxBuf cs))

/-- `RCOPY rd, rs` (R137). -/
def execRcopy (rd rs : Fin 4) (s : State) : Host.Outcome State Fault Refusal :=
  done (if rd = rs then s else s.setRealBuf rd (s.realBuf rs))

/-- `CZERO cd, pn` (R138). -/
def execCzero (cd : Fin 4) (pn : Fin 16) (s : State) : Host.Outcome State Fault Refusal :=
  finish s do
    let n := s.idx pn
    require (decide (n ≤ s.cap)) .bounds n
    return s.setCplxBuf cd (List.replicate n Cplx.zero)

/-- `RZERO rd, pn` (R139). -/
def execRzero (rd : Fin 4) (pn : Fin 16) (s : State) : Host.Outcome State Fault Refusal :=
  finish s do
    let n := s.idx pn
    require (decide (n ≤ s.cap)) .bounds n
    return s.setRealBuf rd (List.replicate n F32.zero)

/-- `RLD pd, rs, pi` (R140). -/
def execRld (pd : Fin 16) (rs : Fin 4) (pi : Fin 16) (s : State) : Host.Outcome State Fault Refusal :=
  finish s do
    let i ← elementIndex s pi (s.rlen rs)
    return s.setP pd (s.readReal rs i)

/-- `RST rd, pi, ps` (R141). -/
def execRst (rd : Fin 4) (pi ps : Fin 16) (s : State) : Host.Outcome State Fault Refusal :=
  finish s do
    let i ← elementIndex s pi (s.rlen rd)
    return s.writeReal rd i (s.real ps)

end Sys2Proof.Machine
end

