-- ==== Sys2Proof/Machine/Walsh.lean ====
section
/-! DEFINITION. The Walsh/Hadamard code generator (49_walsh R330 to R332, R336) and its commands (R333 to R335). -/

namespace Sys2Proof.Machine

open Sys2Proof

/-- The sign turned round. -/
def Sign.flip : Sign → Sign
  | .pos => .neg
  | .neg => .pos

/-- When an entry is negated (R332): `a`, `b` say whether `i`, `j` lie in the upper half. -/
def negate : Config.WalshNegRule → Bool → Bool → Bool
  | .both, a, b => a && b
  | .exactlyOne, a, b => a != b

/-- `walsh(n, i, j)` (R331); there is no order 0. -/
def walsh (rule : Config.WalshNegRule) : Nat → Nat → Nat → Sign
  | 0, _, _ => .pos
  | 1, _, _ => .pos
  | n + 2, i, j =>
    let half := 2 ^ n
    let v := walsh rule (n + 1) (i % half) (j % half)
    if negate rule (decide (half ≤ i)) (decide (half ≤ j)) then v.flip else v

namespace State

/-- A lookup of cell `(i, j)`: set if it is unset, and never changed once set (R336). -/
def touch (s : State) (i j : Nat) : State :=
  match s.cell i j with
  | some _ => s
  | none => { s with WT := Sparse.put s.WT (i * s.cfg.wDim + j) (walsh s.cfg.walshNeg s.WORD i j) }

/-- The requested cell and its recursion chain (R335, R336): `(i mod 2^(m-1), j mod 2^(m-1))` for `m = 1 .. WORD`. -/
def touchChain (s : State) (i j : Nat) : State :=
  (List.range s.WORD).foldl (fun t k => t.touch (i % 2 ^ k) (j % 2 ^ k)) s

/-- Every cell of the current table (R334). -/
def touchAll (s : State) : State :=
  (List.range s.walshDim).foldl (fun t i => (List.range s.walshDim).foldl (fun u j => u.touch i j) t) s

end State

/-- `WORDS pn` (R333). -/
def execWords (pn : Fin 16) (s : State) : Host.Outcome State Fault Refusal :=
  finish s do
    let n := s.idx pn
    require (decide (1 ≤ n ∧ n ≤ s.cfg.wLogDim + 1)) .param n
    return { s with WORD := n, WT := [] }

/-- `WGET pd, pi, pj` (R335). -/
def execWget (pd pi pj : Fin 16) (s : State) : Host.Outcome State Fault Refusal :=
  finish s do
    require (decide (s.WORD ≠ 0)) .walshState 0
    let i := s.idx pi
    let j := s.idx pj
    require (decide (i < s.walshDim)) .bounds i
    require (decide (j < s.walshDim)) .bounds j
    return (s.touchChain i j).setP pd (signWord (walsh s.cfg.walshNeg s.WORD i j))

/-- `WFILL` (R334). -/
def execWfill (s : State) : Host.Outcome State Fault Refusal :=
  finish s do
    require (decide (s.WORD ≠ 0)) .walshState 0
    return s.touchAll

end Sys2Proof.Machine
end

