-- ==== Sys2Proof/Machine/Convolution.lean ====
section
/-! DEFINITION. Spectral convolution (45_convolution R270, R272) and its commands (R271, R273). -/

namespace Sys2Proof.Machine

open Sys2Proof

/-- `cmulv(u, v)[i] = cmul(u[i], v[i])` (R270). -/
def cmulv (u v : List Cplx) : List Cplx := List.zipWith cmul u v

/-- `CMULV cd, cs` (R271). -/
def execCmulv (cd cs : Fin 4) (s : State) : Host.Outcome State Fault Refusal :=
  finish s do
    require (decide (s.clen cs = s.clen cd)) .lenMismatch (s.clen cs)
    return s.updCplxBuf cd (cmulv (s.cplxBuf cd) (s.cplxBuf cs))

/-- `CONV rd, ra, rb, ca, cb, ps` (R273): `CB[ca]` ends holding the complex inverse transform, `CB[cb]` the spectrum of
the second signal. -/
def execConv (rd ra rb ca cb : Fin 4) (ps : Fin 16) (s : State) : Host.Outcome State Fault Refusal :=
  finish s do
    requireDistinct ca cb
    let size := s.idx ps
    requireLift s size (s.rlen ra)
    require (decide (s.rlen rb ≤ size)) .bounds (s.rlen rb)
    let a := rfft s.cfg.twiddle (s.realBuf ra) size
    let b := rfft s.cfg.twiddle (s.realBuf rb) size
    let c := ifft s.cfg.twiddle (cmulv a b)
    return ((s.setCplxBuf ca c).setCplxBuf cb b).setRealBuf rd (realp c)

end Sys2Proof.Machine
end

