-- ==== Sys2Proof/Machine/Xcorr.lean ====
section
/-! DEFINITION. Matched-filter cross-correlation (46_xcorr R280 to R288) and its commands (R282, R283, R285, R286). -/

namespace Sys2Proof.Machine

open Sys2Proof

/-- `conjv(u)[i] = cconj(u[i])` (R280). -/
def conjv (u : List Cplx) : List Cplx := u.map cconj

/-- `whiten(u)[i] = cnorm(u[i])` (R281). -/
def whiten (u : List Cplx) : List Cplx := u.map cnorm

/-- `xcinit(ref, S) = conjv(rfft(ref, S))` (R284). -/
def xcinit (gen : Config.TwiddleGen) (ref : List F32) (size : Nat) : List Cplx := conjv (rfft gen ref size)

/-- The complex inverse transform whose real part is `xcorr(F, sig)` (R288). -/
def xcorr (gen : Config.TwiddleGen) (f : List Cplx) (sig : List F32) : List Cplx :=
  ifft gen (cmulv (whiten (rfft gen sig f.length)) f)

/-- `CONJV cb` (R282). -/
def execConjv (cb : Fin 4) (s : State) : Host.Outcome State Fault Refusal :=
  done (s.updCplxBuf cb (conjv (s.cplxBuf cb)))

/-- `WHITEN cb` (R283). -/
def execWhiten (cb : Fin 4) (s : State) : Host.Outcome State Fault Refusal :=
  done (s.updCplxBuf cb (whiten (s.cplxBuf cb)))

/-- `XCINIT cf, rs, ps` (R285). -/
def execXcinit (cf rs : Fin 4) (ps : Fin 16) (s : State) : Host.Outcome State Fault Refusal :=
  finish s do
    requireLift s (s.idx ps) (s.rlen rs)
    return s.setCplxBuf cf (xcinit s.cfg.twiddle (s.realBuf rs) (s.idx ps))

/-- `XCORR rsig, cf, cw` (R286): the signal is overwritten in place, its length stays; the filter bank is not
written. -/
def execXcorr (rsig cf cw : Fin 4) (s : State) : Host.Outcome State Fault Refusal :=
  finish s do
    require (decide (cw ≠ cf)) .aliased cw.val
    let size := s.clen cf
    requirePow2 size
    require (decide (s.rlen rsig = size)) .lenMismatch (s.rlen rsig)
    let w := xcorr s.cfg.twiddle (s.cplxBuf cf) (s.realBuf rsig)
    return (s.setCplxBuf cw w).updRealBuf rsig (realp w)

end Sys2Proof.Machine
end

