-- ==== Sys2Proof/Machine/Dispatch.lean ====
section
/-! DEFINITION. Which meaning each command has. -/

namespace Sys2Proof.Machine

open Sys2Proof

-- One command executed in a state whose sequencer runs (40_sequencer_and_move R130).
def exec (i : Instr) (s : State) : Host.Outcome State Fault Refusal :=
  match i with
  -- 0x0_: sequencer and moves (40_sequencer_and_move)
  | .nop => Sys2Proof.Machine.execNop s
  | .halt => Sys2Proof.Machine.execHalt s
  | .setlo pd imm => Sys2Proof.Machine.execSetlo pd imm s
  | .sethi pd imm => Sys2Proof.Machine.execSethi pd imm s
  | .movp pd ps => Sys2Proof.Machine.execMovp pd ps s
  | .ccopy cd cs => Sys2Proof.Machine.execCcopy cd cs s
  | .rcopy rd rs => Sys2Proof.Machine.execRcopy rd rs s
  | .czero cd pn => Sys2Proof.Machine.execCzero cd pn s
  | .rzero rd pn => Sys2Proof.Machine.execRzero rd pn s
  | .rld pd rs pi => Sys2Proof.Machine.execRld pd rs pi s
  | .rst rd pi ps => Sys2Proof.Machine.execRst rd pi ps s
  -- 0x1_: complex value type (41_complex_alu)
  | .zmk zd pa pb => Sys2Proof.Machine.execZmk zd pa pb s
  | .zre pd zs => Sys2Proof.Machine.execZre pd zs s
  | .zim pd zs => Sys2Proof.Machine.execZim pd zs s
  | .zld zd cs pi => Sys2Proof.Machine.execZld zd cs pi s
  | .zst cd pi zs => Sys2Proof.Machine.execZst cd pi zs s
  | .zadd zd za zb => Sys2Proof.Machine.execZadd zd za zb s
  | .zsub zd za zb => Sys2Proof.Machine.execZsub zd za zb s
  | .zmul zd za zb => Sys2Proof.Machine.execZmul zd za zb s
  | .zdiv zd za zb => Sys2Proof.Machine.execZdiv zd za zb s
  | .zdivs zd za ps => Sys2Proof.Machine.execZdivs zd za ps s
  | .zmag pd zs => Sys2Proof.Machine.execZmag pd zs s
  | .zphase pd zs => Sys2Proof.Machine.execZphase pd zs s
  | .znorm zd zs => Sys2Proof.Machine.execZnorm zd zs s
  | .zisz pd zs => Sys2Proof.Machine.execZisz pd zs s
  | .zconj zd zs => Sys2Proof.Machine.execZconj zd zs s
  -- 0x2_: FFT engine (42_fft_engine)
  | .bitrev cb => Sys2Proof.Machine.execBitrev cb s
  | .bfly cb dir => Sys2Proof.Machine.execBfly cb dir s
  | .fft cb => Sys2Proof.Machine.execFft cb s
  | .ifft cb => Sys2Proof.Machine.execIfft cb s
  | .twid zd dir pn pk => Sys2Proof.Machine.execTwid zd dir pn pk s
  -- 0x3_: real-signal adapter (43_real_adapter)
  | .lift cd rs ps => Sys2Proof.Machine.execLift cd rs ps s
  | .rfft cd rs ps => Sys2Proof.Machine.execRfft cd rs ps s
  | .rfftg cd rs cs pb pg => Sys2Proof.Machine.execRfftg cd rs cs pb pg s
  | .realp rd cs => Sys2Proof.Machine.execRealp rd cs s
  -- 0x4_: bandpass (44_bandpass)
  | .bpedge pd pn pfs pf0 pbw => Sys2Proof.Machine.execBpedge pd pn pfs pf0 pbw s
  | .bpmask cb pi => Sys2Proof.Machine.execBpmask cb pi s
  | .bpf cb pfs pf0 pbw => Sys2Proof.Machine.execBpf cb pfs pf0 pbw s
  -- 0x5_: convolution (45_convolution)
  | .cmulv cd cs => Sys2Proof.Machine.execCmulv cd cs s
  | .conv rd ra rb ca cb ps => Sys2Proof.Machine.execConv rd ra rb ca cb ps s
  -- 0x6_: cross-correlation (46_xcorr)
  | .conjv cb => Sys2Proof.Machine.execConjv cb s
  | .whiten cb => Sys2Proof.Machine.execWhiten cb s
  | .xcinit cf rs ps => Sys2Proof.Machine.execXcinit cf rs ps s
  | .xcorr rsig cf cw => Sys2Proof.Machine.execXcorr rsig cf cw s
  -- 0x7_: resampling (47_resample)
  | .zstuff cd cs pt => Sys2Proof.Machine.execZstuff cd cs pt s
  | .decim rd cs pstep pn => Sys2Proof.Machine.execDecim rd cs pstep pn s
  | .resamp rd rs ca cb pbase => Sys2Proof.Machine.execResamp rd rs ca cb pbase s
  -- 0x8_: Hilbert (48_hilbert)
  | .hrot cb => Sys2Proof.Machine.execHrot cb s
  | .hilb cd rs pn => Sys2Proof.Machine.execHilb cd rs pn s
  -- 0x9_: Walsh (49_walsh)
  | .words pn => Sys2Proof.Machine.execWords pn s
  | .wget pd pi pj => Sys2Proof.Machine.execWget pd pi pj s
  | .wfill => Sys2Proof.Machine.execWfill s

end Sys2Proof.Machine
end

