-- ==== Sys2Proof/Machine/Fetch.lean ====
section
/-! DEFINITION. Fetching and decoding a command (40_sequencer_and_move R130), and a word put where the next fetch reads
it. -/

namespace Sys2Proof.Machine

open Sys2Proof

/-- The fetch of R130: `PC_RANGE(pc)` at or past `CMDCAP`, then `ILLEGAL_CMD(W)` for a word that is no command. -/
def fetch (s : State) : Except Raise Instr :=
  if s.pc < s.cfg.cmdCap then
    match decode (s.readCM s.pc) with
    | some i => .ok i
    | none => .error (.illegalCmd, (s.readCM s.pc).toNat)
  else .error (.pcRange, s.pc)

/-- The sequencer running, with a word at the command it fetches next: no host turn before it, a recorded fault
cleared, `pc` at 0 if it stood past the command memory. Log entry 10. -/
def placeWord (s : State) (w : Word) : State :=
  let t := if s.STATE = .fault then s.clearFault else s
  let pc := if t.pc < t.cfg.cmdCap then t.pc else 0
  { t with STATE := .run, host := [], pc := pc, CM := t.CM.write pc w }

end Sys2Proof.Machine
end

