-- ==== Sys2Proof/Machine/HostPort.lean ====
section
/-! DEFINITION. The host's side: the word map (20_memory R81), reads and writes by engine state (R82), the `CTRL` write
(R84), the byte view of the bus (R72, R73), the reset input (70_reset_and_hazards R391). Log entries 8, 9, 14. -/

namespace Sys2Proof.Machine

open Sys2Proof

/-- What a host word index names (R81). -/
inductive HostWord where
  | ctrl
  | status
  | pcr
  | fcause
  | fpc
  | finfo
  | wordr
  | id
  | capr
  | rev
  | p (i : Fin 16)
  | zre (i : Fin 8)
  | zim (i : Fin 8)
  | rlen (r : Fin 4)
  | clen (b : Fin 4)
  | cm (a : Nat)
  | rb (r : Fin 4) (i : Nat)
  /-- Word `w` of complex bank `b`: `re` of sample `w/2` where `w` is even, `im` where it is odd. -/
  | cb (b : Fin 4) (w : Nat)
  /-- The cell with key `i*WDIM + j`. -/
  | wt (key : Nat)
  /-- "reads return `0`, writes are dropped". -/
  | reserved
  deriving DecidableEq, Repr

/-- The control registers of the map, `0x0000` to `0x000F`. -/
def locateControl (a : Nat) : HostWord :=
  match a with
  | 0x0 => .ctrl
  | 0x1 => .status
  | 0x2 => .pcr
  | 0x3 => .fcause
  | 0x4 => .fpc
  | 0x5 => .finfo
  | 0x6 => .wordr
  | 0x7 => .id
  | 0x8 => .capr
  | 0x9 => .rev
  | _ => .reserved

/-- The register words of the map, `0x0010` to `0x0037`. -/
def locateRegister (a : Nat) : HostWord :=
  if h : a - 0x10 < 16 then .p ⟨a - 0x10, h⟩
  else if h : (a - 0x20) / 2 < 8 then if a % 2 = 0 then .zre ⟨(a - 0x20) / 2, h⟩ else .zim ⟨(a - 0x20) / 2, h⟩
  else if h : a - 0x30 < 4 then .rlen ⟨a - 0x30, h⟩
  else if h : a - 0x34 < 4 then .clen ⟨a - 0x34, h⟩
  else .reserved

/-- The real banks: `0x10000000 + r*0x01000000 + i`. -/
def locateReal (c : Config.Params) (off : Nat) : HostWord :=
  if h : off / 0x01000000 < 4 then
    if off % 0x01000000 < c.cap then .rb ⟨off / 0x01000000, h⟩ (off % 0x01000000) else .reserved
  else .reserved

/-- The complex banks: `0x20000000 + b*0x02000000 + 2*i`, and `+ 1`. -/
def locateCplx (c : Config.Params) (off : Nat) : HostWord :=
  if h : off / 0x02000000 < 4 then
    if off % 0x02000000 < 2 * c.cap then .cb ⟨off / 0x02000000, h⟩ (off % 0x02000000) else .reserved
  else .reserved

/-- The host word map (R81). -/
def locate (c : Config.Params) (a : Nat) : HostWord :=
  if a < 0x10 then locateControl a
  else if a < 0x38 then locateRegister a
  else if a < 0x00010000 then .reserved
  else if a < 0x10000000 then if a - 0x00010000 < c.cmdCap then .cm (a - 0x00010000) else .reserved
  else if a < 0x20000000 then locateReal c (a - 0x10000000)
  else if a < 0x30000000 then locateCplx c (a - 0x20000000)
  else if a - 0x30000000 < c.wDim * c.wDim then .wt (a - 0x30000000)
  else .reserved

namespace State

/-- The contents of a host word (R81). -/
def hostWord (s : State) : HostWord → Word
  | .ctrl => s.ctrlWord
  | .status => s.statusWord
  | .pcr => BitVec.ofNat 32 s.pc
  | .fcause => causeWord s.FCAUSE
  | .fpc => BitVec.ofNat 32 s.FPC
  | .finfo => s.FINFO
  | .wordr => BitVec.ofNat 32 s.WORD
  | .id => idWord
  | .capr => s.caprWord
  | .rev => revWord
  | .p i => s.getP i
  | .zre i => (s.getZ i).re
  | .zim i => (s.getZ i).im
  | .rlen r => BitVec.ofNat 32 (s.rlen r)
  | .clen b => BitVec.ofNat 32 (s.clen b)
  | .cm a => s.readCM a
  | .rb r i => s.readReal r i
  | .cb b w => s.readCplxWord b w
  | .wt key => cellWord (Sparse.lookup s.WT key)
  | .reserved => 0#32

/-- A bank's length written by the host, `per` words a sample: a larger one shows samples that are unspecified where
nobody has written them (10_state R46); a smaller one leaves the samples below it, and what lies beyond is unspecified
(log entry 14). -/
def hostLength (g : Config.Region) (per : Nat) (b : Bank) (n : Nat) : Bank :=
  if b.len ≤ n then { b with len := n }
  else { len := n, mem := b.mem.fresh ((List.range (per * n)).map (b.mem.read g)) }

/-- `CTRL` written (R84): `SRST` alone; else `IE`, then `CLRF`, then `START`. -/
def writeCtrl (s : State) (v : Word) : State :=
  if v.getLsbD 2 then s.restart (v.getLsbD 3)
  else
    let s := { s with IE := v.getLsbD 3 }
    let s := if v.getLsbD 1 && (s.STATE == .halted || s.STATE == .fault) then s.clearFault else s
    if v.getLsbD 0 && (s.STATE == .idle || s.STATE == .halted) then { s with pc := 0, STATE := .run } else s

/-- A host word written while the engine does not run (R81); read-only and reserved words drop it, and so does a length
register a value above `CAP` (10_state R43). -/
def writeHostWord (s : State) (v : Word) : HostWord → State
  | .ctrl => s.writeCtrl v
  | .p i => s.setP i v
  | .zre i => s.setZ i { s.getZ i with re := v }
  | .zim i => s.setZ i { s.getZ i with im := v }
  | .rlen r => if v.toNat ≤ s.cap then { s with RB := s.RB.set r (hostLength (.real r) 1 s.RB[r] v.toNat) } else s
  | .clen b => if v.toNat ≤ s.cap then { s with CB := s.CB.set b (hostLength (.cplx b) 2 s.CB[b] v.toNat) } else s
  | .cm a => { s with CM := s.CM.write a v }
  | .rb r i => s.writeReal r i v
  | .cb b w => s.writeCplxWord b w v
  | .status | .pcr | .fcause | .fpc | .finfo | .wordr | .id | .capr | .rev | .wt _ | .reserved => s

end State

/-- "While `STATE = RUN`: reads of `STATUS`, `PCR`, `ID`, `CAPR`, `REV` work" (R82). -/
def readableWhileRunning : HostWord → Bool
  | .status | .pcr | .id | .capr | .rev => true
  | _ => false

/-- `MemRead(addr, 4)` (R80, R82): no side effect (R74); the model keeps what the host got. -/
def hostRead (addr : Nat) (s : State) : Host.Outcome State Fault Refusal :=
  if addr < 2 ^ 30 then
    let w := locate s.cfg addr
    if s.STATE = .run ∧ readableWhileRunning w = false then .refused (.hostMoveWhileRunning addr)
    else .next { s with hostGot := some (s.hostWord w) }
  else .fault (.noSuchHostWord addr)

/-- `MemWrite(addr, 4, v)` (R80, R82). While the engine runs only a write to `CTRL` is a move; there `START` and `CLRF`
have no effect, as R84's conditions on `STATE` say. -/
def hostWrite (addr : Nat) (v : Word) (s : State) : Host.Outcome State Fault Refusal :=
  if addr < 2 ^ 30 then
    let w := locate s.cfg addr
    if s.STATE = .run ∧ w ≠ .ctrl then .refused (.hostMoveWhileRunning addr) else .next (s.writeHostWord v w)
  else .fault (.noSuchHostWord addr)

/-- A word from its four bytes: "the word's bits 7:0 are at the lowest byte address (little-endian)" (R72). -/
def wordOfBytes (b0 b1 b2 b3 : BitVec 8) : Word := b3 ++ b2 ++ b1 ++ b0

/-- One host move. A byte-addressed host "reaches host word `w` at byte address `4*w`" (R72), by aligned 4-byte accesses
only (R73). -/
def hostMove (m : HostMove) (s : State) : Host.Outcome State Fault Refusal :=
  match m with
  | .read addr => hostRead addr s
  | .write addr v => hostWrite addr v s
  | .byteRead byteAddr size =>
    if size = 4 ∧ byteAddr % 4 = 0 then hostRead (byteAddr / 4) s else .refused (.hostAccessShape byteAddr size)
  | .byteWrite byteAddr [b0, b1, b2, b3] =>
    if byteAddr % 4 = 0 then hostWrite (byteAddr / 4) (wordOfBytes b0 b1 b2 b3) s
    else .refused (.hostAccessShape byteAddr 4)
  | .byteWrite byteAddr bytes => .refused (.hostAccessShape byteAddr bytes.length)
  | .resetInput => .next (s.restart false)

end Sys2Proof.Machine
end

