-- ==== Sys2Proof/Machine/Step.lean ====
section
/-! DEFINITION. The step (40_sequencer_and_move R130), and a word placed for the next step. -/

namespace Sys2Proof.Machine

open Sys2Proof

/-- The sequencer's step (R130): "While `STATE = RUN` the sequencer repeats this step, and does nothing else; while
`STATE` has any other value it does nothing at all." -/
def engineStep (s : State) : Host.Outcome State Fault Refusal :=
  match s.STATE with
  | .run =>
    match fetch s with
    | .ok i => exec i s
    | .error (c, v) => .next (s.takeFault c v)
  | .idle | .halted | .fault => .next s

/-- The next turn taken: the engine's step, or one host move (log entry 8). -/
def step (s : State) : Host.Outcome State Fault Refusal :=
  match s.host with
  | [] => engineStep s
  | .engine :: rest => engineStep { s with host := rest }
  | .move m :: rest => hostMove m { s with host := rest }

/-- `s` with a command word where `step` fetches its next command, the sequencer running (log entry 10). -/
def State.withFetchWord (s : State) (nbits w : Nat) : State := placeWord s (BitVec.ofNat 32 (w % 2 ^ nbits))

end Sys2Proof.Machine
end

