-- ==== Sys2Proof/Safety.lean ====
section
/-! DEFINITION. The terms that claims about the machine are made in: the invariant every step keeps, what a completed
command and a run are, what each command may write, the causes it can raise (60_exceptions R351), what of a state a
command can see (10_state R46), the in-place loops of 42_fft_engine R204, and the exact value of a binary32. -/

namespace Sys2Proof

/-! ## The exact value of a binary32 (00_scope R12) -/

namespace F32

/-- The number a finite pattern stands for. -/
def value (x : F32) : ℚ := (smant x : ℚ) * 2 ^ expo x

/-- `z` is finite, no finite binary32 is nearer to `r`, and where another one is as near `z` has the even significand:
round to nearest, ties to even. -/
def IsNearest (r : ℝ) (z : F32) : Prop :=
  isFinite z = true ∧
    ∀ w : F32, isFinite w = true →
      |(value z : ℝ) - r| ≤ |(value w : ℝ) - r| ∧
        (|(value z : ℝ) - r| = |(value w : ℝ) - r| → value w = value z ∨ mant z % 2 = 0)

/-- `z` is `r` rounded once: the nearest binary32, or, from halfway between the largest finite one and `2^128` on, the
infinity of its sign. -/
def IsRounded (r : ℝ) (z : F32) : Prop :=
  (|r| < 2 ^ 128 - 2 ^ 103 → IsNearest r z) ∧
    (2 ^ 128 - 2 ^ 103 ≤ r → z = 0x7F800000#32) ∧
    (r ≤ -(2 ^ 128 - 2 ^ 103) → z = 0xFF800000#32)

end F32

/-! ## The loops of the butterfly stages as the pseudocode of 42_fft_engine R204 writes them -/

/-- The body of the innermost loop: two stores, or, by the zero-skip, one. -/
def butterflyInPlace (gen : Config.TwiddleGen) (dir : Dir) (m p : Nat) (x : List Cplx) (j : Nat) : List Cplx :=
  let a := Machine.at_ x (p + j)
  let b := Machine.at_ x (p + j + m)
  if ciszero b then x.set (p + j + m) a
  else
    let t := cmul b (TW gen dir x.length (x.length / (2 * m) * j))
    (x.set (p + j + m) (csub a t)).set (p + j) (cadd a t)

/-- `for p in 0, 2m, 4m, ...: for j in 0 .. m-1`. -/
def stageInPlace (gen : Config.TwiddleGen) (dir : Dir) (x : List Cplx) (m : Nat) : List Cplx :=
  (List.range (x.length / (2 * m))).foldl
    (fun y q => (List.range m).foldl (butterflyInPlace gen dir m (q * (2 * m))) y) x

/-- `m <- 1; while m < N: ...; m <- 2*m`. -/
def stagesInPlace (gen : Config.TwiddleGen) (dir : Dir) (x : List Cplx) : List Cplx :=
  ((List.range (Nat.log2 x.length)).map (2 ^ ·)).foldl (stageInPlace gen dir) x

/-! ## What a command may write -/

/-- The scalar registers a command writes when it completes (10_state R31). -/
def Instr.writesP : Instr → Fin 16 → Bool
  | .setlo pd _, r | .sethi pd _, r | .movp pd _, r | .rld pd _ _, r | .zre pd _, r | .zim pd _, r | .zmag pd _, r
  | .zphase pd _, r | .zisz pd _, r | .wget pd _ _, r => r == pd
  | .bpedge pd _ _ _ _, r => decide (pd.val ≤ r.val ∧ r.val ≤ pd.val + 3)
  | .nop, _ | .halt, _ | .ccopy _ _, _ | .rcopy _ _, _ | .czero _ _, _ | .rzero _ _, _ | .rst _ _ _, _
  | .zmk _ _ _, _ | .zld _ _ _, _ | .zst _ _ _, _ | .zadd _ _ _, _ | .zsub _ _ _, _ | .zmul _ _ _, _
  | .zdiv _ _ _, _ | .zdivs _ _ _, _ | .znorm _ _, _ | .zconj _ _, _ | .bitrev _, _ | .bfly _ _, _ | .fft _, _
  | .ifft _, _ | .twid _ _ _ _, _ | .lift _ _ _, _ | .rfft _ _ _, _ | .rfftg _ _ _ _ _, _ | .realp _ _, _
  | .bpmask _ _, _ | .bpf _ _ _ _, _ | .cmulv _ _, _ | .conv _ _ _ _ _ _, _ | .conjv _, _ | .whiten _, _
  | .xcinit _ _ _, _ | .xcorr _ _ _, _ | .zstuff _ _ _, _ | .decim _ _ _ _, _ | .resamp _ _ _ _ _, _ | .hrot _, _
  | .hilb _ _ _, _ | .words _, _ | .wfill, _ => false

/-- The complex registers a command writes when it completes (10_state R34). -/
def Instr.writesZ : Instr → Fin 8 → Bool
  | .zmk zd _ _, r | .zld zd _ _, r | .zadd zd _ _, r | .zsub zd _ _, r | .zmul zd _ _, r | .zdiv zd _ _, r
  | .zdivs zd _ _, r | .znorm zd _, r | .zconj zd _, r | .twid zd _ _ _, r => r == zd
  | .nop, _ | .halt, _ | .setlo _ _, _ | .sethi _ _, _ | .movp _ _, _ | .ccopy _ _, _ | .rcopy _ _, _
  | .czero _ _, _ | .rzero _ _, _ | .rld _ _ _, _ | .rst _ _ _, _ | .zre _ _, _ | .zim _ _, _ | .zst _ _ _, _
  | .zmag _ _, _ | .zphase _ _, _ | .zisz _ _, _ | .bitrev _, _ | .bfly _ _, _ | .fft _, _ | .ifft _, _
  | .lift _ _ _, _ | .rfft _ _ _, _ | .rfftg _ _ _ _ _, _ | .realp _ _, _ | .bpedge _ _ _ _ _, _ | .bpmask _ _, _
  | .bpf _ _ _ _, _ | .cmulv _ _, _ | .conv _ _ _ _ _ _, _ | .conjv _, _ | .whiten _, _ | .xcinit _ _ _, _
  | .xcorr _ _ _, _ | .zstuff _ _ _, _ | .decim _ _ _ _, _ | .resamp _ _ _ _ _, _ | .hrot _, _ | .hilb _ _ _, _
  | .words _, _ | .wget _ _ _, _ | .wfill, _ => false

/-- The real banks a command writes samples or the length of when it completes. -/
def Instr.writesR : Instr → Fin 4 → Bool
  | .rcopy rd _, r | .rzero rd _, r | .rst rd _ _, r | .realp rd _, r | .conv rd _ _ _ _ _, r | .xcorr rd _ _, r
  | .decim rd _ _ _, r | .resamp rd _ _ _ _, r => r == rd
  | .nop, _ | .halt, _ | .setlo _ _, _ | .sethi _ _, _ | .movp _ _, _ | .ccopy _ _, _ | .czero _ _, _
  | .rld _ _ _, _ | .zmk _ _ _, _ | .zre _ _, _ | .zim _ _, _ | .zld _ _ _, _ | .zst _ _ _, _ | .zadd _ _ _, _
  | .zsub _ _ _, _ | .zmul _ _ _, _ | .zdiv _ _ _, _ | .zdivs _ _ _, _ | .zmag _ _, _ | .zphase _ _, _
  | .znorm _ _, _ | .zisz _ _, _ | .zconj _ _, _ | .bitrev _, _ | .bfly _ _, _ | .fft _, _ | .ifft _, _
  | .twid _ _ _ _, _ | .lift _ _ _, _ | .rfft _ _ _, _ | .rfftg _ _ _ _ _, _ | .bpedge _ _ _ _ _, _
  | .bpmask _ _, _ | .bpf _ _ _ _, _ | .cmulv _ _, _ | .conjv _, _ | .whiten _, _ | .xcinit _ _ _, _
  | .zstuff _ _ _, _ | .hrot _, _ | .hilb _ _ _, _ | .words _, _ | .wget _ _ _, _ | .wfill, _ => false

/-- The complex banks a command writes samples or the length of when it completes (70_reset_and_hazards R400, R407). -/
def Instr.writesC : Instr → Fin 4 → Bool
  | .ccopy cd _, b | .czero cd _, b | .zst cd _ _, b | .bitrev cd, b | .bfly cd _, b | .fft cd, b | .ifft cd, b
  | .lift cd _ _, b | .rfft cd _ _, b | .bpmask cd _, b | .bpf cd _ _ _, b | .cmulv cd _, b | .conjv cd, b
  | .whiten cd, b | .xcinit cd _ _, b | .zstuff cd _ _, b | .hrot cd, b | .hilb cd _ _, b => b == cd
  | .xcorr _ _ cw, b => b == cw
  | .rfftg cd _ cs _ _, b => b == cd || b == cs
  | .conv _ _ _ ca cb _, b | .resamp _ _ ca cb _, b => b == ca || b == cb
  | .nop, _ | .halt, _ | .setlo _ _, _ | .sethi _ _, _ | .movp _ _, _ | .rcopy _ _, _ | .rzero _ _, _
  | .rld _ _ _, _ | .rst _ _ _, _ | .zmk _ _ _, _ | .zre _ _, _ | .zim _ _, _ | .zld _ _ _, _ | .zadd _ _ _, _
  | .zsub _ _ _, _ | .zmul _ _ _, _ | .zdiv _ _ _, _ | .zdivs _ _ _, _ | .zmag _ _, _ | .zphase _ _, _
  | .znorm _ _, _ | .zisz _ _, _ | .zconj _ _, _ | .twid _ _ _ _, _ | .realp _ _, _ | .bpedge _ _ _ _ _, _
  | .decim _ _ _ _, _ | .words _, _ | .wget _ _ _, _ | .wfill, _ => false

/-- The commands that write the Walsh table (10_state R49). -/
def Instr.writesWalsh : Instr → Bool
  | .words _ | .wget _ _ _ | .wfill => true
  | .nop | .halt | .setlo _ _ | .sethi _ _ | .movp _ _ | .ccopy _ _ | .rcopy _ _ | .czero _ _ | .rzero _ _
  | .rld _ _ _ | .rst _ _ _ | .zmk _ _ _ | .zre _ _ | .zim _ _ | .zld _ _ _ | .zst _ _ _ | .zadd _ _ _
  | .zsub _ _ _ | .zmul _ _ _ | .zdiv _ _ _ | .zdivs _ _ _ | .zmag _ _ | .zphase _ _ | .znorm _ _ | .zisz _ _
  | .zconj _ _ | .bitrev _ | .bfly _ _ | .fft _ | .ifft _ | .twid _ _ _ _ | .lift _ _ _ | .rfft _ _ _
  | .rfftg _ _ _ _ _ | .realp _ _ | .bpedge _ _ _ _ _ | .bpmask _ _ | .bpf _ _ _ _ | .cmulv _ _
  | .conv _ _ _ _ _ _ | .conjv _ | .whiten _ | .xcinit _ _ _ | .xcorr _ _ _ | .zstuff _ _ _ | .decim _ _ _ _
  | .resamp _ _ _ _ _ | .hrot _ | .hilb _ _ _ => false

/-- The bank of complex samples a command overwrites in place, its length kept (10_state R46 does not apply). -/
def Instr.inPlaceC : Instr → Option (Fin 4)
  | .bitrev cb | .bfly cb _ | .fft cb | .ifft cb | .bpmask cb _ | .bpf cb _ _ _ | .cmulv cb _ | .conjv cb
  | .whiten cb | .hrot cb => some cb
  | .nop | .halt | .setlo _ _ | .sethi _ _ | .movp _ _ | .ccopy _ _ | .rcopy _ _ | .czero _ _ | .rzero _ _
  | .rld _ _ _ | .rst _ _ _ | .zmk _ _ _ | .zre _ _ | .zim _ _ | .zld _ _ _ | .zst _ _ _ | .zadd _ _ _
  | .zsub _ _ _ | .zmul _ _ _ | .zdiv _ _ _ | .zdivs _ _ _ | .zmag _ _ | .zphase _ _ | .znorm _ _ | .zisz _ _
  | .zconj _ _ | .twid _ _ _ _ | .lift _ _ _ | .rfft _ _ _ | .rfftg _ _ _ _ _ | .realp _ _ | .bpedge _ _ _ _ _
  | .conv _ _ _ _ _ _ | .xcinit _ _ _ | .xcorr _ _ _ | .zstuff _ _ _ | .decim _ _ _ _ | .resamp _ _ _ _ _
  | .hilb _ _ _ | .words _ | .wget _ _ _ | .wfill => none

namespace Machine

/-- The entry of the Walsh table as an integer (49_walsh R330). -/
def Sign.toInt : Sign → Int
  | .pos => 1
  | .neg => -1

/-! ## Causes -/

/-- The commands that can raise a cause, by mnemonic: the last column of the table of 60_exceptions R351. -/
def Cause.raisedBy : Cause → List String
  | .illegalCmd => []
  | .pcRange => []
  | .notPow2 =>
    ["BITREV", "BFLY", "FFT", "IFFT", "TWID", "LIFT", "RFFT", "RFFTG", "BPEDGE", "BPMASK", "BPF", "CONV", "XCINIT",
     "XCORR", "ZSTUFF", "RESAMP", "HROT", "HILB"]
  | .bounds =>
    ["CZERO", "RZERO", "RLD", "RST", "ZLD", "ZST", "TWID", "LIFT", "RFFT", "RFFTG", "BPEDGE", "CONV", "XCINIT",
     "ZSTUFF", "DECIM", "RESAMP", "HILB", "WGET"]
  | .lenMismatch => ["CMULV", "XCORR"]
  | .bpWidth => ["BPEDGE", "BPF"]
  | .bpNyquist => ["BPEDGE", "BPMASK", "BPF"]
  | .divZero => ["ZDIV", "ZDIVS"]
  | .aliased => ["RFFTG", "CONV", "XCORR", "ZSTUFF", "RESAMP"]
  | .param => ["BPEDGE", "BPMASK", "BPF", "ZSTUFF", "DECIM", "RESAMP", "WORDS"]
  | .walshState => ["WGET", "WFILL"]

/-! ## Buffers -/

/-- Bank `r` holds exactly these real samples (10_state R41). -/
def Bank.holdsReal (B : Bank) (r : Fin 4) (xs : List F32) : Prop :=
  B.len = xs.length ∧ ∀ i, i < xs.length → B.mem.read (.real r) i = xs.getD i F32.zero

/-- Bank `b` holds exactly these complex samples (10_state R44). -/
def Bank.holdsCplx (B : Bank) (b : Fin 4) (xs : List Cplx) : Prop :=
  B.len = xs.length ∧
    ∀ i, i < xs.length →
      B.mem.read (.cplx b) (2 * i) = (at_ xs i).re ∧ B.mem.read (.cplx b) (2 * i + 1) = (at_ xs i).im

/-! ## States -/

namespace State

/-- What is true of every state that a step can lead to from a state of which it is true: the ranges of 10_state R32,
R41, R44, R49, the memories in canonical form, every set Walsh cell a cell of the current table with its value
(R49), and the fault record present exactly in `FAULT` (R38, R39, 60_exceptions R370). -/
structure Inv (s : State) : Prop where
  cfg_wf   : s.cfg.wf = true
  pc_le    : s.pc ≤ s.cfg.cmdCap
  rlen_le  : ∀ r, s.rlen r ≤ s.cap
  clen_le  : ∀ b, s.clen b ≤ s.cap
  rb_wf    : ∀ r : Fin 4, s.RB[r].mem.wf s.cap = true
  cb_wf    : ∀ b : Fin 4, s.CB[b].mem.wf (2 * s.cap) = true
  cm_wf    : s.CM.wf s.cfg.cmdCap = true
  word_le  : s.WORD ≤ s.cfg.wLogDim + 1
  wt_wf    : Sparse.risingFrom 0 (s.cfg.wDim * s.cfg.wDim) s.WT = true
  wt_cell  : ∀ c ∈ s.WT, s.WORD ≠ 0 ∧ ∃ i j, i < s.walshDim ∧ j < s.walshDim ∧
               c = (i * s.cfg.wDim + j, walsh s.cfg.walshNeg s.WORD i j)
  fault    : s.STATE = .fault ↔ s.FCAUSE ≠ none
  record   : s.FCAUSE = none → s.FPC = 0 ∧ s.FINFO = 0#32
  fault_pc : s.STATE = .fault → s.FPC = s.pc

/-- What a command can see of a state: everything but the words of a bank at or beyond its length (10_state R46), the
words of the command memory by what they read as. -/
structure SameToCommands (s t : State) : Prop where
  P     : s.P = t.P
  pc    : s.pc = t.pc
  Z     : s.Z = t.Z
  IE    : s.IE = t.IE
  STATE : s.STATE = t.STATE
  record : s.FCAUSE = t.FCAUSE ∧ s.FPC = t.FPC ∧ s.FINFO = t.FINFO
  rlen  : ∀ r, s.rlen r = t.rlen r
  real  : ∀ r, s.realBuf r = t.realBuf r
  clen  : ∀ b, s.clen b = t.clen b
  cplx  : ∀ b, s.cplxBuf b = t.cplxBuf b
  CM    : ∀ a, s.readCM a = t.readCM a
  walsh : s.WORD = t.WORD ∧ s.WT = t.WT
  cfg   : s.cfg = t.cfg
  host  : s.host = t.host ∧ s.hostGot = t.hostGot

/-- A run is over (20_memory R85). -/
def Ended (s : State) : Prop := s.STATE = .halted ∨ s.STATE = .fault

/-- A safe run of `n` steps: every step answers a next state and none of the states on the way is `FAULT`. -/
def SafeFor : Nat → State → Prop
  | 0, s => s.STATE ≠ .fault
  | n + 1, s => s.STATE ≠ .fault ∧ ∃ t, step s = .next t ∧ SafeFor n t

end State

end Machine

end Sys2Proof
end

