-- ==== Sys2Proof/Certificates/Slice0/Obligations.lean ====
section
/-! DEFINITION. The statements made of SPSE. Each docstring names the rule of spec/ it formalises. A completed command is
written as an equation of its whole next state, so that it says what the command leaves alone as well; where a bank is
written, the state is given up to that bank `B`, and what `B` holds is said word by word. -/

section

open Sys2Proof Sys2Proof.Machine

/-! ## Reset, fetch, faults, the interrupt line -/

/-- 10_state R60: what every reset (power-on; the reset input; `SRST` apart from `IE`) leaves. The rows R60 calls
unspecified (samples, command words) say nothing, and nothing is said of them here. -/
def Obligations.ResetValues : Prop :=
  ∀ u s : State, s = State.resetWith u.cfg ∨ s = u.restart false →
    (∀ i, s.getP i = 0x00000000#32) ∧ s.pc = 0 ∧ (∀ i, s.getZ i = ⟨0x00000000#32, 0x00000000#32⟩) ∧
    s.IE = false ∧ s.STATE = .idle ∧ causeWord s.FCAUSE = 0#32 ∧ s.FPC = 0 ∧ s.FINFO = 0#32 ∧
    (∀ r, s.rlen r = 0) ∧ (∀ b, s.clen b = 0) ∧ s.WORD = 0 ∧ (∀ i j, s.cell i j = none) ∧
    s.hostWord .id = u.hostWord .id ∧ s.hostWord .capr = u.hostWord .capr ∧ s.hostWord .rev = u.hostWord .rev ∧
    ∀ dir n k, TW s.cfg.twiddle dir n k = TW u.cfg.twiddle dir n k

/-- 70_reset_and_hazards R391: the reset input and a `CTRL` write with `SRST`, in any `STATE`, lead to the reset state;
the second one puts bit 3 of the written word into `IE` and differs in nothing else. That the parameters and the host's
turns stay is the model's (log entries 1 and 8). -/
def Obligations.ResetSources : Prop :=
  (∀ (s : State) (rest : List HostTurn), s.host = .move .resetInput :: rest →
    step s = .next (({ s with host := rest } : State).restart false)) ∧
  (∀ (s : State) (rest : List HostTurn) (v : Word), s.host = .move (.write 0x0000 v) :: rest → v.getLsbD 2 = true →
    step s = .next { ({ s with host := rest } : State).restart false with IE := v.getLsbD 3 })

/-- 20_memory R84, steps (2) to (4), and step (1) by the reset state: a `CTRL` write as one step of the machine, in every
`STATE`. That the write is the next of the turns (`host`), that it leaves `rest` and `hostGot`, and that the reset of step
(1) keeps these and the parameters, are the model's choices (log entries 1 and 8). -/
def Obligations.ControlWrite : Prop :=
  ∀ (s : State) (rest : List HostTurn) (v : Word), s.host = .move (.write 0x0000 v) :: rest →
    let clears := v.getLsbD 1 = true ∧ (s.STATE = .halted ∨ s.STATE = .fault)
    let starts := v.getLsbD 0 = true ∧ (clears ∨ s.STATE = .idle ∨ s.STATE = .halted)
    (v.getLsbD 2 = true →
      step s = .next { ({ s with host := rest } : State).restart false with IE := v.getLsbD 3 }) ∧
    (v.getLsbD 2 = false →
      ∃ t, step s = .next t ∧ t.IE = v.getLsbD 3 ∧
        (clears → t.FCAUSE = none ∧ t.FPC = 0 ∧ t.FINFO = 0#32) ∧
        (¬ clears → t.FCAUSE = s.FCAUSE ∧ t.FPC = s.FPC ∧ t.FINFO = s.FINFO) ∧
        (starts → t.pc = 0 ∧ t.STATE = .run) ∧
        (¬ starts → t.pc = s.pc ∧ (clears → t.STATE = .idle) ∧ (¬ clears → t.STATE = s.STATE)) ∧
        t.P = s.P ∧ t.Z = s.Z ∧ t.RB = s.RB ∧ t.CB = s.CB ∧ t.CM = s.CM ∧ t.WORD = s.WORD ∧ t.WT = s.WT ∧
        t.cfg = s.cfg ∧ t.host = rest ∧ t.hostGot = s.hostGot)

/-- The model's own invariant (`State.Inv`) holds after power-on, whatever the legal parameters. -/
def Obligations.InvariantAtReset : Prop :=
  State.reset.Inv ∧ ∀ cfg : Config.Params, cfg.wf = true → (State.resetWith cfg).Inv

/-- 40_sequencer_and_move R130: the engine's step at a legal command is that command's meaning; outside `RUN` the engine
does nothing. The turns (`host`) are the model's (log entry 8): with none listed the engine acts. -/
def Obligations.StepRunsDecodedCommand : Prop :=
  (∀ (s : State) (i : Instr), s.host = [] → s.STATE = .run → s.pc < s.cfg.cmdCap →
    decode (s.readCM s.pc) = some i → step s = exec i s) ∧
  (∀ (s : State) (rest : List HostTurn) (i : Instr), s.host = .engine :: rest → s.STATE = .run →
    s.pc < s.cfg.cmdCap → decode (s.readCM s.pc) = some i → step s = exec i { s with host := rest }) ∧
  (∀ s : State, s.host = [] → s.STATE ≠ .run → step s = .next s)

/-- 60_exceptions R362 and R352: `PC_RANGE` comes before the fetch, `ILLEGAL_CMD` carries the word. With no host
turn listed the engine acts (log entry 8). -/
def Obligations.FetchFaults : Prop :=
  (∀ s : State, s.host = [] → s.STATE = .run → s.cfg.cmdCap ≤ s.pc →
    step s = .next { s with FCAUSE := some .pcRange, FPC := s.pc, FINFO := BitVec.ofNat 32 (min s.pc 0xFFFFFFFF),
                            STATE := .fault }) ∧
  (∀ s : State, s.host = [] → s.STATE = .run → s.pc < s.cfg.cmdCap → decode (s.readCM s.pc) = none →
    step s = .next { s with FCAUSE := some .illegalCmd, FPC := s.pc, FINFO := s.readCM s.pc, STATE := .fault })

/-- 60_exceptions R370: fault entry writes the record and `STATE`, nothing else; `PCR = FPC`; the interrupt output rises
if `IE = 1`. -/
def Obligations.FaultEntry : Prop :=
  ∀ (s : State) (c : Cause) (v : Nat),
    finish s (.error (c, v)) =
      .next { s with FCAUSE := some c, FPC := s.pc, FINFO := BitVec.ofNat 32 (min v 0xFFFFFFFF), STATE := .fault } ∧
    (s.takeFault c v).hostWord .pcr = (s.takeFault c v).hostWord .fpc ∧
    (s.IE = true → (s.takeFault c v).irq = true)

/-- 60_exceptions R360: the level of the interrupt output, its bit in `STATUS`, and the four ways it is cleared. -/
def Obligations.InterruptLevel : Prop :=
  (∀ s : State, s.irq = true ↔ s.IE = true ∧ (s.STATE = .halted ∨ s.STATE = .fault)) ∧
  (∀ s : State, (s.hostWord .status).getLsbD 2 = s.irq) ∧
  (∀ (s : State) (v : Word), v.getLsbD 2 = false →
    v.getLsbD 1 = true ∨ (v.getLsbD 0 = true ∧ s.STATE ≠ .fault) ∨ v.getLsbD 3 = false → (s.writeCtrl v).irq = false) ∧
  (∀ (s : State) (ie : Bool), (s.restart ie).irq = false)

/-! ## The host's side -/

/-- 20_memory R82: while the engine runs, five words can be read and `CTRL` written, every other access is no move of
the host (refused, U9); while it does not run every access works. -/
def Obligations.HostAccessByState : Prop :=
  (∀ (s : State) (rest : List HostTurn) (addr : Nat), s.STATE = .run → s.host = .move (.read addr) :: rest →
    addr < 2 ^ 30 →
    step s = if addr ∈ [0x0001, 0x0002, 0x0007, 0x0008, 0x0009]
      then .next { s with host := rest, hostGot := some (s.hostWord (locate s.cfg addr)) }
      else .refused (.hostMoveWhileRunning addr)) ∧
  (∀ (s : State) (rest : List HostTurn) (addr : Nat) (v : Word), s.STATE = .run →
    s.host = .move (.write addr v) :: rest → addr < 2 ^ 30 → addr ≠ 0x0000 →
    step s = .refused (.hostMoveWhileRunning addr)) ∧
  (∀ (s : State) (rest : List HostTurn) (addr : Nat), s.STATE ≠ .run → s.host = .move (.read addr) :: rest →
    addr < 2 ^ 30 → step s = .next { s with host := rest, hostGot := some (s.hostWord (locate s.cfg addr)) }) ∧
  (∀ (s : State) (rest : List HostTurn) (addr : Nat) (v : Word), s.STATE ≠ .run →
    s.host = .move (.write addr v) :: rest → addr < 2 ^ 30 → ∃ t, step s = .next t ∧ t.host = rest)

/-- 10_state R35 to R40: what the ten control words read as, that a write to a read-only one is dropped, that `CTRL`
keeps nothing of a write but its four low bits, and that `IE` is stored. -/
def Obligations.ControlRegisters : Prop :=
  ∀ s : State, s.cfg.wf = true →
    let at' (a : Nat) := s.hostWord (locate s.cfg a)
    at' 0x0000 = (if s.IE then 0x00000008#32 else 0x00000000#32) ∧
    (∀ v w : Word, (∀ k, k < 4 → v.getLsbD k = w.getLsbD k) → s.writeCtrl v = s.writeCtrl w) ∧
    (∀ v : Word, (s.writeCtrl v).IE = v.getLsbD 3) ∧
    (∀ (v : Word) (a : Nat), 0x0001 ≤ a → a ≤ 0x0009 → s.writeHostWord v (locate s.cfg a) = s) ∧
    (at' 0x0001).extractLsb' 0 2 =
      (match s.STATE with | .idle => 0#2 | .run => 1#2 | .halted => 2#2 | .fault => 3#2) ∧
    (at' 0x0001).getLsbD 2 = s.irq ∧
    ((at' 0x0001).getLsbD 3 = true ↔
      s.WORD ≠ 0 ∧ ∀ i j, i < 2 ^ (s.WORD - 1) → j < 2 ^ (s.WORD - 1) → (s.cell i j).isSome = true) ∧
    (at' 0x0001).extractLsb' 4 28 = 0#28 ∧
    at' 0x0002 = BitVec.ofNat 32 s.pc ∧
    at' 0x0003 = (match s.FCAUSE with | none => 0#32 | some c => BitVec.ofNat 32 c.code) ∧
    at' 0x0004 = BitVec.ofNat 32 s.FPC ∧
    at' 0x0005 = s.FINFO ∧
    at' 0x0006 = BitVec.ofNat 32 s.WORD ∧
    at' 0x0007 = 0x53505345#32 ∧
    (at' 0x0008).extractLsb' 0 5 = BitVec.ofNat 5 s.cfg.logCap ∧
    (at' 0x0008).extractLsb' 5 3 = 0#3 ∧
    (at' 0x0008).extractLsb' 8 5 = BitVec.ofNat 5 s.cfg.logCmd ∧
    (at' 0x0008).extractLsb' 13 3 = 0#3 ∧
    (at' 0x0008).extractLsb' 16 5 = BitVec.ofNat 5 s.cfg.wLogDim ∧
    (at' 0x0008).extractLsb' 21 11 = 0#11 ∧
    at' 0x0009 = 0x00010000#32

/-- 20_memory R81: the rows of the host word map, that every other word is reserved, what reads and writes do by the
access column, and that a write to a bank word keeps the length; R43 with 10_state R51: a write to a length register
changes the length alone, drops a value above `CAP`, and leaves the samples below the old and the new length (what it
leaves beyond the old one is the model's choice, log entry 14, and is said in `FrameBeyondLength`). Every parameter value
is covered. What the control words hold is `ControlRegisters`', what a `CTRL` write does `ControlWrite`'s. -/
def Obligations.HostMap : Prop :=
  (∀ c : Config.Params, c.wf = true →
    [0x0000, 0x0001, 0x0002, 0x0003, 0x0004, 0x0005, 0x0006, 0x0007, 0x0008, 0x0009].map (locate c) =
      [.ctrl, .status, .pcr, .fcause, .fpc, .finfo, .wordr, .id, .capr, .rev] ∧
    (∀ i : Fin 16, locate c (0x0010 + i) = .p i) ∧
    (∀ i : Fin 8, locate c (0x0020 + 2 * i) = .zre i ∧ locate c (0x0021 + 2 * i) = .zim i) ∧
    (∀ r : Fin 4, locate c (0x0030 + r) = .rlen r ∧ locate c (0x0034 + r) = .clen r) ∧
    (∀ a, a < c.cmdCap → locate c (0x00010000 + a) = .cm a) ∧
    (∀ (r : Fin 4) (i : Nat), i < c.cap → locate c (0x10000000 + r * 0x01000000 + i) = .rb r i) ∧
    (∀ (b : Fin 4) (i : Nat), i < c.cap →
      locate c (0x20000000 + b * 0x02000000 + 2 * i) = .cb b (2 * i) ∧
      locate c (0x20000000 + b * 0x02000000 + 2 * i + 1) = .cb b (2 * i + 1)) ∧
    (∀ i j, i < c.wDim → j < c.wDim → locate c (0x30000000 + i * c.wDim + j) = .wt (i * c.wDim + j)) ∧
    ∀ a, a < 2 ^ 30 →
      locate c a = .reserved ∨ a < 0x000A ∨ (0x0010 ≤ a ∧ a < 0x0038) ∨
      (0x00010000 ≤ a ∧ a < 0x00010000 + c.cmdCap) ∨
      (∃ r i, r < 4 ∧ i < c.cap ∧ a = 0x10000000 + r * 0x01000000 + i) ∨
      (∃ b i, b < 4 ∧ i < 2 * c.cap ∧ a = 0x20000000 + b * 0x02000000 + i) ∨
      ∃ i j, i < c.wDim ∧ j < c.wDim ∧ a = 0x30000000 + i * c.wDim + j) ∧
  (∀ s : State, s.hostWord .reserved = 0#32 ∧
    (∀ i, s.hostWord (.p i) = s.getP i) ∧ (∀ i, s.hostWord (.zre i) = (s.getZ i).re) ∧
    (∀ i, s.hostWord (.zim i) = (s.getZ i).im) ∧ (∀ r, s.hostWord (.rlen r) = BitVec.ofNat 32 (s.rlen r)) ∧
    (∀ b, s.hostWord (.clen b) = BitVec.ofNat 32 (s.clen b)) ∧ (∀ a, s.hostWord (.cm a) = s.readCM a) ∧
    (∀ r i, s.hostWord (.rb r i) = s.readReal r i) ∧ (∀ b i, s.hostWord (.cb b (2 * i)) = (s.readCplx b i).re) ∧
    (∀ b i, s.hostWord (.cb b (2 * i + 1)) = (s.readCplx b i).im) ∧
    (∀ i j, s.hostWord (.wt (i * s.cfg.wDim + j)) =
      match s.cell i j with | none => 0x00000000#32 | some .pos => 0x00000001#32 | some .neg => 0xFFFFFFFF#32)) ∧
  (∀ (s : State) (v : Word) (w : HostWord),
    w ∈ [.status, .pcr, .fcause, .fpc, .finfo, .wordr, .id, .capr, .rev, .reserved] ∨ (∃ k, w = .wt k) →
    s.writeHostWord v w = s) ∧
  (∀ (s : State) (v : Word) (w : HostWord),
    (∃ i, w = .p i) ∨ (∃ i, w = .zre i) ∨ (∃ i, w = .zim i) ∨ (∃ a, w = .cm a) ∨ (∃ r i, w = .rb r i) ∨
      (∃ b i, w = .cb b i) →
    (s.writeHostWord v w).hostWord w = v ∧
    (∀ r, (s.writeHostWord v w).rlen r = s.rlen r) ∧ (∀ b, (s.writeHostWord v w).clen b = s.clen b) ∧
    ∀ u, u ≠ w → (s.writeHostWord v w).hostWord u = s.hostWord u) ∧
  (∀ (s : State) (v : Word) (r : Fin 4),
    (v.toNat ≤ s.cap → (s.writeHostWord v (.rlen r)).hostWord (.rlen r) = v ∧
      (s.writeHostWord v (.clen r)).hostWord (.clen r) = v ∧
      (∃ B, s.writeHostWord v (.rlen r) = { s with RB := s.RB.set r B } ∧ B.len = v.toNat ∧
        ∀ i, i < s.rlen r → i < v.toNat → B.mem.read (.real r) i = s.readReal r i) ∧
      (∃ B, s.writeHostWord v (.clen r) = { s with CB := s.CB.set r B } ∧ B.len = v.toNat ∧
        ∀ i, i < s.clen r → i < v.toNat →
          B.mem.read (.cplx r) (2 * i) = (s.readCplx r i).re ∧
          B.mem.read (.cplx r) (2 * i + 1) = (s.readCplx r i).im)) ∧
    (s.cap < v.toNat → s.writeHostWord v (.rlen r) = s ∧ s.writeHostWord v (.clen r) = s))

/-- 20_memory R73 (with the byte order of R72): a byte-addressed host's aligned 4-byte access is the word access; any
other one is refused. -/
def Obligations.ByteAccess : Prop :=
  (∀ (s : State) (w : Nat), hostMove (.byteRead (4 * w) 4) s = hostMove (.read w) s) ∧
  (∀ (s : State) (w : Nat) (v : Word),
    hostMove (.byteWrite (4 * w) [v.extractLsb' 0 8, v.extractLsb' 8 8, v.extractLsb' 16 8, v.extractLsb' 24 8]) s =
      hostMove (.write w v) s) ∧
  (∀ (s : State) (a size : Nat), ¬ (size = 4 ∧ a % 4 = 0) →
    hostMove (.byteRead a size) s = .refused (.hostAccessShape a size)) ∧
  (∀ (s : State) (a : Nat) (bytes : List (BitVec 8)), ¬ (bytes.length = 4 ∧ a % 4 = 0) →
    hostMove (.byteWrite a bytes) s = .refused (.hostAccessShape a bytes.length))

/-! ## Encoding -/

/-- 30_encoding R112: the worked encodings. -/
def Obligations.WorkedEncodings : Prop :=
  decode 0x01000000#32 = some .nop ∧
  decode 0x02000000#32 = some .halt ∧
  decode 0x03301234#32 = some (.setlo 3 0x1234#16) ∧
  decode 0x04303F80#32 = some (.sethi 3 0x3F80#16) ∧
  decode 0x05120000#32 = some (.movp 1 2) ∧
  decode 0x22200000#32 = some (.fft 2) ∧
  decode 0x21110000#32 = some (.bfly 1 .inv) ∧
  decode 0x17123000#32 = some (.zmul 1 2 3) ∧
  decode 0x51012015#32 = some (.conv 0 1 2 0 1 5) ∧
  decode 0x72100140#32 = some (.resamp 1 0 0 1 4) ∧
  decode 0x91012000#32 = some (.wget 0 1 2) ∧
  decode 0x00000000#32 = none ∧ decode 0x22400000#32 = none ∧ decode 0x01000001#32 = none

/-- Decode and encode agree: for every well-formed command, every operand at every value its field admits (30_encoding
R101 to R103, R106, R109). -/
def Obligations.DecodeEncode : Prop := ∀ i : Instr, i.wellFormed = true → decode (encode i) = some i

/-- The other direction (30_encoding R107, R109): the decoder drops no bit of a word it accepts and accepts no term that
is not a command. -/
def Obligations.DecodeSound : Prop := ∀ (w : Word) (i : Instr), decode w = some i → i.wellFormed = true ∧ encode i = w

/-- 30_encoding R107 and R106: a word is a command exactly when it matches a row of the table, which is then the row of
that command's mnemonic, and no two rows match one word. -/
def Obligations.DecoderIsTheTable : Prop :=
  opcodeTable.length = 52 ∧
  (∀ w : Word, decode w = none ↔ ∀ row ∈ opcodeTable, row.matches w = false) ∧
  (∀ (w : Word) (i : Instr), decode w = some i →
    ∀ row ∈ opcodeTable, row.matches w = true ↔ row.mnemonic = i.mnemonic) ∧
  (∀ (w : Word), ∀ row ∈ opcodeTable, ∀ row' ∈ opcodeTable, row.matches w = true → row'.matches w = true → row = row')

/-! ## 40: sequencer, scalar registers, moves -/

/-- 40_sequencer_and_move R131 to R135: `NOP`, `HALT`, `SETLO`, `SETHI`, `MOVP`; a `NOP` word with a non-zero field is
illegal, and a later `START` restarts from `pc = 0`. -/
def Obligations.SequencerAndScalars : Prop :=
  (encode .nop = 0x01000000#32 ∧ encode .halt = 0x02000000#32) ∧
  (∀ w : Word, w.extractLsb' 24 8 = 0x01#8 → w ≠ 0x01000000#32 → decode w = none) ∧
  (∀ (s : State) (v : Word), s.STATE = .halted → v.getLsbD 2 = false → v.getLsbD 0 = true →
    (s.writeCtrl v).pc = 0 ∧ (s.writeCtrl v).STATE = .run) ∧
  (∀ s : State, exec .nop s = .next { s with pc := s.pc + 1 } ∧ exec .halt s = .next { s with STATE := .halted }) ∧
  (∀ (pd ps : Fin 16) (imm : BitVec 16) (s : State),
    encode (.setlo pd imm) = wordI 0x03 pd imm ∧ encode (.sethi pd imm) = wordI 0x04 pd imm ∧
    encode (.movp pd ps) = wordR 0x05 pd ps 0 0 0 0 ∧
    exec (.setlo pd imm) s = .next { s with P := s.P.set pd (0#16 ++ imm), pc := s.pc + 1 } ∧
    exec (.sethi pd imm) s =
      .next { s with P := s.P.set pd (imm ++ (s.getP pd).extractLsb' 0 16), pc := s.pc + 1 } ∧
    exec (.movp pd ps) s = .next { s with P := s.P.set pd (s.getP ps), pc := s.pc + 1 })

/-- 40_sequencer_and_move R136, R137. -/
def Obligations.BankCopies : Prop :=
  (∀ cd cs : Fin 4, encode (.ccopy cd cs) = wordR 0x06 cd cs 0 0 0 0 ∧
    encode (.rcopy cd cs) = wordR 0x07 cd cs 0 0 0 0) ∧
  (∀ (c : Fin 4) (s : State), exec (.ccopy c c) s = .next { s with pc := s.pc + 1 } ∧
    exec (.rcopy c c) s = .next { s with pc := s.pc + 1 }) ∧
  (∀ (cd cs : Fin 4) (s : State), cd ≠ cs →
    (∃ B, exec (.ccopy cd cs) s = .next { s with CB := s.CB.set cd B, pc := s.pc + 1 } ∧
      B.holdsCplx cd (s.cplxBuf cs)) ∧
    (∃ B, exec (.rcopy cd cs) s = .next { s with RB := s.RB.set cd B, pc := s.pc + 1 } ∧
      B.holdsReal cd (s.realBuf cs)))

/-- 40_sequencer_and_move R138, R139. -/
def Obligations.BankZeroes : Prop :=
  ∀ (d : Fin 4) (pn : Fin 16) (s : State),
    encode (.czero d pn) = wordR 0x08 d pn 0 0 0 0 ∧ encode (.rzero d pn) = wordR 0x09 d pn 0 0 0 0 ∧
    (s.idx pn ≤ s.cap →
      (∃ B, exec (.czero d pn) s = .next { s with CB := s.CB.set d B, pc := s.pc + 1 } ∧
        B.holdsCplx d (List.replicate (s.idx pn) ⟨0#32, 0#32⟩)) ∧
      (∃ B, exec (.rzero d pn) s = .next { s with RB := s.RB.set d B, pc := s.pc + 1 } ∧
        B.holdsReal d (List.replicate (s.idx pn) 0#32))) ∧
    (s.cap < s.idx pn →
      exec (.czero d pn) s = .next (s.takeFault .bounds (s.idx pn)) ∧
      exec (.rzero d pn) s = .next (s.takeFault .bounds (s.idx pn)))

/-- 40_sequencer_and_move R140, R141: the element accesses of the real banks. The store goes to word `P[pi]` of bank
`rd`; every other word of that bank reads as before. -/
def Obligations.RealElements : Prop :=
  (∀ (pd pi : Fin 16) (rs : Fin 4) (s : State),
    encode (.rld pd rs pi) = wordR 0x0A pd rs pi 0 0 0 ∧
    (s.idx pi < s.rlen rs →
      exec (.rld pd rs pi) s = .next { s with P := s.P.set pd (s.readReal rs (s.idx pi)), pc := s.pc + 1 }) ∧
    (s.rlen rs ≤ s.idx pi → exec (.rld pd rs pi) s = .next (s.takeFault .bounds (s.idx pi)))) ∧
  (∀ (rd : Fin 4) (pi ps : Fin 16) (s : State),
    encode (.rst rd pi ps) = wordR 0x0B rd pi ps 0 0 0 ∧
    (s.idx pi < s.rlen rd →
      ∃ B : Bank, exec (.rst rd pi ps) s = .next { s with RB := s.RB.set rd B, pc := s.pc + 1 } ∧
        B.len = s.rlen rd ∧ B.mem.read (.real rd) (s.idx pi) = s.getP ps ∧
        ∀ k, k ≠ s.idx pi → B.mem.read (.real rd) k = s.readReal rd k) ∧
    (s.rlen rd ≤ s.idx pi → exec (.rst rd pi ps) s = .next (s.takeFault .bounds (s.idx pi))))

/-! ## 41: complex arithmetic unit -/

/-- 41_complex_alu R174, R175: the element accesses of the complex banks. The store goes to both words of sample
`P[pi]` of bank `cd`; every other word of that bank reads as before. -/
def Obligations.ComplexElements : Prop :=
  (∀ (zd : Fin 8) (cs : Fin 4) (pi : Fin 16) (s : State),
    encode (.zld zd cs pi) = wordR 0x13 zd cs pi 0 0 0 ∧
    (s.idx pi < s.clen cs →
      exec (.zld zd cs pi) s =
        .next { s with
          Z := s.Z.set zd ⟨s.readCplxWord cs (2 * s.idx pi), s.readCplxWord cs (2 * s.idx pi + 1)⟩, pc := s.pc + 1 }) ∧
    (s.clen cs ≤ s.idx pi → exec (.zld zd cs pi) s = .next (s.takeFault .bounds (s.idx pi)))) ∧
  (∀ (cd : Fin 4) (pi : Fin 16) (zs : Fin 8) (s : State),
    encode (.zst cd pi zs) = wordR 0x14 cd pi zs 0 0 0 ∧
    (s.idx pi < s.clen cd →
      ∃ B : Bank, exec (.zst cd pi zs) s = .next { s with CB := s.CB.set cd B, pc := s.pc + 1 } ∧
        B.len = s.clen cd ∧ B.mem.read (.cplx cd) (2 * s.idx pi) = (s.getZ zs).re ∧
        B.mem.read (.cplx cd) (2 * s.idx pi + 1) = (s.getZ zs).im ∧
        ∀ k, k ≠ 2 * s.idx pi → k ≠ 2 * s.idx pi + 1 → B.mem.read (.cplx cd) k = s.readCplxWord cd k) ∧
    (s.clen cd ≤ s.idx pi → exec (.zst cd pi zs) s = .next (s.takeFault .bounds (s.idx pi))))

/-- 41_complex_alu R171, R172, R173. -/
def Obligations.ComplexRegisterMoves : Prop :=
  (∀ (zd : Fin 8) (pa pb : Fin 16) (s : State),
    encode (.zmk zd pa pb) = wordR 0x10 zd pa pb 0 0 0 ∧
    exec (.zmk zd pa pb) s = .next { s with Z := s.Z.set zd ⟨s.getP pa, s.getP pb⟩, pc := s.pc + 1 }) ∧
  (∀ (pd : Fin 16) (zs : Fin 8) (s : State),
    encode (.zre pd zs) = wordR 0x11 pd zs 0 0 0 0 ∧ encode (.zim pd zs) = wordR 0x12 pd zs 0 0 0 0 ∧
    exec (.zre pd zs) s = .next { s with P := s.P.set pd (s.getZ zs).re, pc := s.pc + 1 } ∧
    exec (.zim pd zs) s = .next { s with P := s.P.set pd (s.getZ zs).im, pc := s.pc + 1 })

/-- 41_complex_alu R176, R177, R178, R185, written out in the operations of 00_scope R12 (R161, R162, R163, R170).
What these give on zeros, equal operands and infinities (the corner cases of the rules) is in `SpecialOperands`. -/
def Obligations.ComplexArithmetic : Prop :=
  (∀ (zd za zb : Fin 8) (s : State),
    let a := s.getZ za
    let b := s.getZ zb
    encode (.zadd zd za zb) = wordR 0x15 zd za zb 0 0 0 ∧
    encode (.zsub zd za zb) = wordR 0x16 zd za zb 0 0 0 ∧
    encode (.zmul zd za zb) = wordR 0x17 zd za zb 0 0 0 ∧
    exec (.zadd zd za zb) s =
      .next { s with Z := s.Z.set zd ⟨F32.fadd a.re b.re, F32.fadd a.im b.im⟩, pc := s.pc + 1 } ∧
    exec (.zsub zd za zb) s =
      .next { s with Z := s.Z.set zd ⟨F32.fsub a.re b.re, F32.fsub a.im b.im⟩, pc := s.pc + 1 } ∧
    exec (.zmul zd za zb) s =
      .next { s with
        Z := s.Z.set zd ⟨F32.fsub (F32.fmul a.re b.re) (F32.fmul a.im b.im),
                         F32.fadd (F32.fmul a.re b.im) (F32.fmul a.im b.re)⟩
        pc := s.pc + 1 }) ∧
  (∀ (zd zs : Fin 8) (s : State),
    encode (.zconj zd zs) = wordR 0x1E zd zs 0 0 0 0 ∧
    exec (.zconj zd zs) s =
      .next { s with Z := s.Z.set zd ⟨(s.getZ zs).re, (s.getZ zs).im ^^^ 0x80000000#32⟩, pc := s.pc + 1 })

/-- 41_complex_alu R181, R183, R184, written out (R166, R168, R169). -/
def Obligations.ComplexMetrics : Prop :=
  (∀ (pd : Fin 16) (zs : Fin 8) (s : State),
    let a := s.getZ zs
    encode (.zmag pd zs) = wordR 0x1A pd zs 0 0 0 0 ∧ encode (.zisz pd zs) = wordR 0x1D pd zs 0 0 0 0 ∧
    exec (.zmag pd zs) s =
      .next { s with
        P := s.P.set pd (F32.fsqrt (F32.fadd (F32.fmul a.re a.re) (F32.fmul a.im a.im))), pc := s.pc + 1 } ∧
    exec (.zisz pd zs) s =
      .next { s with
        P := s.P.set pd (if (a.re = 0x00000000#32 ∨ a.re = 0x80000000#32) ∧
                            (a.im = 0x00000000#32 ∨ a.im = 0x80000000#32) then 0x00000001#32 else 0x00000000#32)
        pc := s.pc + 1 }) ∧
  (∀ (zd zs : Fin 8) (s : State),
    let a := s.getZ zs
    let m := F32.fsqrt (F32.fadd (F32.fmul a.re a.re) (F32.fmul a.im a.im))
    encode (.znorm zd zs) = wordR 0x1C zd zs 0 0 0 0 ∧
    exec (.znorm zd zs) s =
      .next { s with
        Z := s.Z.set zd (if m = 0x00000000#32 ∨ m = 0x80000000#32 then a else ⟨F32.fdiv a.re m, F32.fdiv a.im m⟩)
        pc := s.pc + 1 })

/-- 41_complex_alu R182, with the named properties of R167; nothing is said of the value of `fatan2` beyond them, and
nothing at all at `(±0, ±0)`: it is a free value (log entry 5). -/
def Obligations.Phase : Prop :=
  (∀ (pd : Fin 16) (zs : Fin 8) (s : State),
    encode (.zphase pd zs) = wordR 0x1B pd zs 0 0 0 0 ∧
    exec (.zphase pd zs) s =
      .next { s with P := s.P.set pd (F32.fatan2 (s.getZ zs).im (s.getZ zs).re), pc := s.pc + 1 }) ∧
  (∀ x : F32, F32.flt 0x00000000#32 x = true → F32.fatan2 0x00000000#32 x = 0x00000000#32) ∧
  (∀ y : F32, F32.flt 0x00000000#32 y = true → F32.fatan2 y 0x00000000#32 = 0x3FC90FDB#32) ∧
  (∀ y : F32, F32.flt y 0x00000000#32 = true → F32.fatan2 y 0x00000000#32 = 0xBFC90FDB#32) ∧
  (∀ y x : F32, F32.isNaN y = true ∨ F32.isNaN x = true → F32.isNaN (F32.fatan2 y x) = true) ∧
  (∀ y x : F32, F32.isNaN y = false → F32.isNaN x = false → (F32.feq0 y && F32.feq0 x) = false →
    F32.fle 0xC0490FDB#32 (F32.fatan2 y x) = true ∧ F32.fle (F32.fatan2 y x) 0x40490FDB#32 = true)

/-- 41_complex_alu R179, R180, written out (R164, R165). -/
def Obligations.ComplexDivision : Prop :=
  (∀ (zd za zb : Fin 8) (s : State),
    let a := s.getZ za
    let b := s.getZ zb
    let d := F32.fadd (F32.fmul b.re b.re) (F32.fmul b.im b.im)
    encode (.zdiv zd za zb) = wordR 0x18 zd za zb 0 0 0 ∧
    (F32.feq0 d = false →
      exec (.zdiv zd za zb) s =
        .next { s with
          Z := s.Z.set zd ⟨F32.fdiv (F32.fadd (F32.fmul a.re b.re) (F32.fmul a.im b.im)) d,
                           F32.fdiv (F32.fsub (F32.fmul a.im b.re) (F32.fmul a.re b.im)) d⟩
          pc := s.pc + 1 }) ∧
    (F32.feq0 d = true → exec (.zdiv zd za zb) s = .next (s.takeFault .divZero zb.val))) ∧
  (∀ (zd za : Fin 8) (ps : Fin 16) (s : State),
    encode (.zdivs zd za ps) = wordR 0x19 zd za ps 0 0 0 ∧
    (F32.feq0 (s.getP ps) = false →
      exec (.zdivs zd za ps) s =
        .next { s with
          Z := s.Z.set zd ⟨F32.fdiv (s.getZ za).re (s.getP ps), F32.fdiv (s.getZ za).im (s.getP ps)⟩
          pc := s.pc + 1 }) ∧
    (F32.feq0 (s.getP ps) = true → exec (.zdivs zd za ps) s = .next (s.takeFault .divZero ps.val)))

/-- 41_complex_alu R163: "`cmul(a, b)` and `cmul(b, a)` are the same value whenever no NaN is involved". -/
def Obligations.ProductCommutes : Prop :=
  ∀ a b : Cplx, F32.isNaN (cmul a b).re = false → F32.isNaN (cmul a b).im = false → cmul a b = cmul b a

/-! ## 42: FFT engine -/

/-- 42_fft_engine R212 to R215: the four commands that transform a bank in place, `N = CLEN[cb]`. -/
def Obligations.TransformsInPlace : Prop :=
  ∀ (cb : Fin 4) (dir : Dir) (s : State),
    let gen := s.cfg.twiddle
    let x := s.cplxBuf cb
    let n := s.clen cb
    encode (.bitrev cb) = wordR 0x20 cb 0 0 0 0 0 ∧ encode (.bfly cb dir) = wordR 0x21 cb dir.code 0 0 0 0 ∧
    encode (.fft cb) = wordR 0x22 cb 0 0 0 0 0 ∧ encode (.ifft cb) = wordR 0x23 cb 0 0 0 0 0 ∧
    (ispow2 n = true →
      (∃ B, exec (.bitrev cb) s = .next { s with CB := s.CB.set cb B, pc := s.pc + 1 } ∧
        B.len = n ∧ B.holdsCplx cb (bitrev x)) ∧
      (∃ B, exec (.bfly cb dir) s = .next { s with CB := s.CB.set cb B, pc := s.pc + 1 } ∧
        B.len = n ∧ B.holdsCplx cb (stages gen dir x)) ∧
      (∃ B, exec (.fft cb) s = .next { s with CB := s.CB.set cb B, pc := s.pc + 1 } ∧
        B.len = n ∧ B.holdsCplx cb (stages gen .fwd (bitrev x))) ∧
      (∃ B, exec (.ifft cb) s = .next { s with CB := s.CB.set cb B, pc := s.pc + 1 } ∧
        B.len = n ∧
        B.holdsCplx cb ((stages gen .inv (bitrev x)).map fun z =>
          ⟨F32.fdiv z.re (F32.u2f n), F32.fdiv z.im (F32.u2f n)⟩))) ∧
    (ispow2 n = false →
      exec (.bitrev cb) s = .next (s.takeFault .notPow2 n) ∧ exec (.bfly cb dir) s = .next (s.takeFault .notPow2 n) ∧
      exec (.fft cb) s = .next (s.takeFault .notPow2 n) ∧ exec (.ifft cb) s = .next (s.takeFault .notPow2 n))

/-- 42_fft_engine R216; for `N = 1` the value is `(1, +0)` whatever `k` and the table. -/
def Obligations.TwiddleRead : Prop :=
  (∀ (gen : Config.TwiddleGen) (dir : Dir) (k : Nat), TW gen dir 1 (k % 1) = ⟨0x3F800000#32, 0x00000000#32⟩) ∧
  ∀ (zd : Fin 8) (dir : Dir) (pn pk : Fin 16) (s : State),
    encode (.twid zd dir pn pk) = wordR 0x24 zd dir.code pn pk 0 0 ∧
    (ispow2 (s.idx pn) = true → s.idx pn ≤ s.cap →
      exec (.twid zd dir pn pk) s =
        .next { s with Z := s.Z.set zd (TW s.cfg.twiddle dir (s.idx pn) (s.idx pk % s.idx pn)), pc := s.pc + 1 }) ∧
    (ispow2 (s.idx pn) = false → exec (.twid zd dir pn pk) s = .next (s.takeFault .notPow2 (s.idx pn))) ∧
    (ispow2 (s.idx pn) = true → s.cap < s.idx pn →
      exec (.twid zd dir pn pk) s = .next (s.takeFault .bounds (s.idx pn)))

/-- 42_fft_engine R202, with `rev_n` as 00_scope R10 defines it: bit `k` of `rev_n(i)` is bit `n-1-k` of `i`. -/
def Obligations.BitReversal : Prop :=
  (∀ n i k, k < n → (rev n i).testBit k = i.testBit (n - 1 - k)) ∧
  (∀ n i, rev n i < 2 ^ n) ∧
  (∀ n i, i < 2 ^ n → rev n (rev n i) = i) ∧
  (∀ x : List Cplx, ispow2 x.length = true →
    (bitrev x).length = x.length ∧
    (∀ i, i < x.length → at_ (bitrev x) (rev (Nat.log2 x.length) i) = at_ x i) ∧
    bitrev (bitrev x) = x) ∧
  (∀ x0 x1 x2 x3 x4 x5 x6 x7 : Cplx,
    bitrev [x0, x1, x2, x3, x4, x5, x6, x7] = [x0, x4, x2, x6, x1, x5, x3, x7])

/-- 42_fft_engine R204 with R205 and R206: the loops that update the buffer in place, as the pseudocode writes them,
compute `stages`; so the order of the butterflies inside a stage is no part of the result. -/
def Obligations.StagesInPlace : Prop :=
  ∀ (gen : Config.TwiddleGen) (dir : Dir) (x : List Cplx), ispow2 x.length = true →
    stagesInPlace gen dir x = stages gen dir x

/-- 42_fft_engine R210: what a claim may rely on for any admissible table, and how the two directions of the default
table are related; the values R211 prints for it (forward; the inverse ones follow), and `TW(dir, 2N, 2k) = TW(dir, N, k)`,
which is R211's too. That the default table is correctly rounded at every other index is log entry 6. -/
def Obligations.TwiddleProperties : Prop :=
  (∀ (gen : Config.TwiddleGen) (dir : Dir) (n k : Nat), ispow2 n = true →
    TW gen dir n k = TW gen dir n (k % n) ∧
    TW gen dir n 0 = ⟨0x3F800000#32, 0x00000000#32⟩ ∧
    F32.fle 0xBF800000#32 (TW gen dir n k).re = true ∧ F32.fle (TW gen dir n k).re 0x3F800000#32 = true ∧
    F32.fle 0xBF800000#32 (TW gen dir n k).im = true ∧ F32.fle (TW gen dir n k).im 0x3F800000#32 = true) ∧
  (∀ n k : Nat, ispow2 n = true →
    let f := TW .correctlyRounded .fwd n k
    let v := TW .correctlyRounded .inv n k
    f.re = v.re ∧ f.im = (if F32.feq0 v.im then 0x00000000#32 else F32.fneg v.im) ∧
    f.re ≠ 0x80000000#32 ∧ v.im ≠ 0x80000000#32) ∧
  (∀ n : Nat, ispow2 n = true → 4 ≤ n →
    TW .correctlyRounded .fwd n (n / 4) = ⟨0x00000000#32, 0xBF800000#32⟩ ∧
    TW .correctlyRounded .fwd n (n / 2) = ⟨0xBF800000#32, 0x00000000#32⟩ ∧
    TW .correctlyRounded .fwd n (3 * n / 4) = ⟨0x00000000#32, 0x3F800000#32⟩) ∧
  ((List.range 1).map (TW .correctlyRounded .fwd 1) = [⟨0x3F800000#32, 0x00000000#32⟩] ∧
    (List.range 2).map (TW .correctlyRounded .fwd 2) =
      [⟨0x3F800000#32, 0x00000000#32⟩, ⟨0xBF800000#32, 0x00000000#32⟩] ∧
    [1, 2, 3].map (TW .correctlyRounded .fwd 4) =
      [⟨0x00000000#32, 0xBF800000#32⟩, ⟨0xBF800000#32, 0x00000000#32⟩, ⟨0x00000000#32, 0x3F800000#32⟩] ∧
    [1, 2, 3, 4, 5, 6, 7].map (TW .correctlyRounded .fwd 8) =
      [⟨0x3F3504F3#32, 0xBF3504F3#32⟩, ⟨0x00000000#32, 0xBF800000#32⟩, ⟨0xBF3504F3#32, 0xBF3504F3#32⟩,
       ⟨0xBF800000#32, 0x00000000#32⟩, ⟨0xBF3504F3#32, 0x3F3504F3#32⟩, ⟨0x00000000#32, 0x3F800000#32⟩,
       ⟨0x3F3504F3#32, 0x3F3504F3#32⟩] ∧
    [1, 3, 5, 7].map (TW .correctlyRounded .fwd 16) =
      [⟨0x3F6C835E#32, 0xBEC3EF15#32⟩, ⟨0x3EC3EF15#32, 0xBF6C835E#32⟩, ⟨0xBEC3EF15#32, 0xBF6C835E#32⟩,
       ⟨0xBF6C835E#32, 0xBEC3EF15#32⟩]) ∧
  (∀ (dir : Dir) (n k : Nat), ispow2 n = true →
    TW .correctlyRounded dir (2 * n) (2 * k) = TW .correctlyRounded dir n k)

/-! ## 43: real-signal adapter -/

/-- 43_real_adapter R234, R235, R237: `LIFT`, `RFFT` and `REALP`; the three checks in order. -/
def Obligations.LiftAndTransform : Prop :=
  (∀ (cd rs : Fin 4) (ps : Fin 16) (s : State),
    let size := s.idx ps
    let l := s.rlen rs
    let x := s.realBuf rs
    encode (.lift cd rs ps) = wordR 0x30 cd rs ps 0 0 0 ∧ encode (.rfft cd rs ps) = wordR 0x31 cd rs ps 0 0 0 ∧
    (ispow2 size = true → size ≤ s.cap → l ≤ size →
      (∃ B, exec (.lift cd rs ps) s = .next { s with CB := s.CB.set cd B, pc := s.pc + 1 } ∧
        B.len = size ∧ B.holdsCplx cd (lift x size)) ∧
      (∃ B, exec (.rfft cd rs ps) s = .next { s with CB := s.CB.set cd B, pc := s.pc + 1 } ∧
        B.len = size ∧ B.holdsCplx cd (fft s.cfg.twiddle (lift x size)))) ∧
    (¬ (ispow2 size = true ∧ size ≤ s.cap ∧ l ≤ size) →
      let t := if ispow2 size = false then s.takeFault .notPow2 size
        else if s.cap < size then s.takeFault .bounds size else s.takeFault .bounds l
      exec (.lift cd rs ps) s = .next t ∧ exec (.rfft cd rs ps) s = .next t)) ∧
  (∀ (rd cs : Fin 4) (s : State),
    encode (.realp rd cs) = wordR 0x33 rd cs 0 0 0 0 ∧
    ∃ B, exec (.realp rd cs) s = .next { s with RB := s.RB.set rd B, pc := s.pc + 1 } ∧
      B.holdsReal rd ((s.cplxBuf cs).map fun z => z.re))

/-- 43_real_adapter R236 and R232: the grouped path. The scratch bank ends holding `part_k` at `k*B .. k*B + B-1`;
`out[i*B + j]` starts from `part_0[j]` and adds the products `k = 1 .. G-1` in ascending order. -/
def Obligations.GroupedTransform : Prop :=
  (∀ (gen : Config.TwiddleGen) (x : List F32) (b g k : Nat), ispow2 b = true → ispow2 g = true → k < g →
    part gen x b g k = fft gen ((List.range b).map fun r => at_ (lift x (b * g)) (r * g + k))) ∧
  (∀ (gen : Config.TwiddleGen) (x : List F32) (b g i j : Nat), ispow2 b = true → ispow2 g = true → i < g → j < b →
    at_ (rfftg gen x b g) (i * b + j) =
      (List.range' 1 (g - 1)).foldl
        (fun acc k => cadd acc (cmul (TW gen .fwd (b * g) ((i * b + j) * k % (b * g))) (at_ (part gen x b g k) j)))
        (at_ (part gen x b g 0) j)) ∧
  (∀ (cd rs cs : Fin 4) (pb pg : Fin 16) (s : State),
    let b := s.idx pb
    let g := s.idx pg
    let l := s.rlen rs
    let x := s.realBuf rs
    encode (.rfftg cd rs cs pb pg) = wordR 0x32 cd rs cs pb pg 0 ∧
    (cd ≠ cs → ispow2 b = true → ispow2 g = true → b * g ≤ s.cap → l ≤ b * g →
      ∃ B C, exec (.rfftg cd rs cs pb pg) s = .next { s with CB := (s.CB.set cs C).set cd B, pc := s.pc + 1 } ∧
        B.len = b * g ∧ B.holdsCplx cd (rfftg s.cfg.twiddle x b g) ∧ C.len = b * g ∧
        ∀ k j, k < g → j < b →
          C.mem.read (.cplx cs) (2 * (k * b + j)) = (at_ (part s.cfg.twiddle x b g k) j).re ∧
          C.mem.read (.cplx cs) (2 * (k * b + j) + 1) = (at_ (part s.cfg.twiddle x b g k) j).im) ∧
    (¬ (cd ≠ cs ∧ ispow2 b = true ∧ ispow2 g = true ∧ b * g ≤ s.cap ∧ l ≤ b * g) →
      exec (.rfftg cd rs cs pb pg) s =
        .next (if cd = cs then s.takeFault .aliased cd.val
          else if ispow2 b = false then s.takeFault .notPow2 b
          else if ispow2 g = false then s.takeFault .notPow2 g
          else if s.cap < b * g then s.takeFault .bounds (b * g)
          else s.takeFault .bounds l)))

/-! ## 44: bandpass -/

/-- 44_bandpass R251 and R254: the edge computation with its checks in order, and `BPEDGE`. The arm `some _, none`, a
lower edge without an integer after the upper edge has one, is the model's (log entry 19): R251 names no outcome there,
and shows that it does not arise. -/
def Obligations.BandEdges : Prop :=
  (∀ (n : Nat) (fs f0 bw : F32),
    let nf := F32.u2f n
    let wb := F32.fdiv (F32.fmul bw nf) fs
    let half := F32.fmul bw 0x3F000000#32
    let lo := F32.fdiv (F32.fmul (F32.fsub f0 half) nf) fs
    let hi := F32.fdiv (F32.fmul (F32.fadd f0 half) nf) fs
    bpedge n fs f0 bw =
      if F32.fge wb 0x40000000#32 = false then .error (.bpWidth, wb.toNat)
      else if F32.fge lo 0x00000000#32 = false then .error (.param, lo.toNat)
      else match F32.f2iTrunc hi, F32.f2iTrunc lo with
        | none, _ => .error (.param, hi.toNat)
        | some _, none => .error (.param, lo.toNat)
        | some i1, some i0 =>
          if n / 2 ≤ i1.toNat then .error (.bpNyquist, i1.toNat) else .ok (i0.toNat, i1.toNat)) ∧
  (∀ (pd pn pfs pf0 pbw : Fin 16) (s : State),
    let n := s.idx pn
    encode (.bpedge pd pn pfs pf0 pbw) = wordR 0x40 pd pn pfs pf0 pbw 0 ∧
    (∀ i0 i1, pd.val ≤ 12 → ispow2 n = true → n ≤ s.cap →
      bpedge n (s.getP pfs) (s.getP pf0) (s.getP pbw) = .ok (i0, i1) →
      ∃ Q : Vector Word 16, exec (.bpedge pd pn pfs pf0 pbw) s = .next { s with P := Q, pc := s.pc + 1 } ∧
        ∀ r : Fin 16, Q[r] =
          if r.val = pd.val then BitVec.ofNat 32 i0
          else if r.val = pd.val + 1 then BitVec.ofNat 32 i1
          else if r.val = pd.val + 2 then BitVec.ofNat 32 (n - i1 - 1)
          else if r.val = pd.val + 3 then BitVec.ofNat 32 (n - i0 - 1)
          else s.getP r) ∧
    (ispow2 n = false → exec (.bpedge pd pn pfs pf0 pbw) s = .next (s.takeFault .notPow2 n)) ∧
    (ispow2 n = true → s.cap < n → exec (.bpedge pd pn pfs pf0 pbw) s = .next (s.takeFault .bounds n)) ∧
    (∀ c v, ispow2 n = true → n ≤ s.cap → bpedge n (s.getP pfs) (s.getP pf0) (s.getP pbw) = .error (c, v) →
      exec (.bpedge pd pn pfs pf0 pbw) s = .next (s.takeFault c v)))

/-- 44_bandpass R251, R250: "`lo <= hi` always holds here ... hence `i0 <= i1`", and the order of the four indices. -/
def Obligations.BandEdgesOrdered : Prop :=
  ∀ (n : Nat) (fs f0 bw : F32) (i0 i1 : Nat), ispow2 n = true → n ≤ 2 ^ 24 → bpedge n fs f0 bw = .ok (i0, i1) →
    i0 ≤ i1 ∧ i1 < n / 2 ∧ n / 2 ≤ (mirror n i0 i1).1 ∧ (mirror n i0 i1).1 ≤ (mirror n i0 i1).2 ∧
    (mirror n i0 i1).2 ≤ n - 1

/-- 44_bandpass R255, R256: the mask from indices, and the whole filter. -/
def Obligations.BandMask : Prop :=
  (∀ (cb : Fin 4) (pi : Fin 16) (h : pi.val + 1 < 16) (s : State),
    let n := s.clen cb
    let i0 := (s.getP pi).toNat
    let i1 := (s.getP ⟨pi.val + 1, h⟩).toNat
    encode (.bpmask cb pi) = wordR 0x41 cb pi 0 0 0 0 ∧
    (ispow2 n = true → i1 < n / 2 → i0 ≤ i1 →
      ∃ B, exec (.bpmask cb pi) s = .next { s with CB := s.CB.set cb B, pc := s.pc + 1 } ∧
        B.len = n ∧ B.holdsCplx cb (bpmask i0 i1 (s.cplxBuf cb))) ∧
    (¬ (ispow2 n = true ∧ i1 < n / 2 ∧ i0 ≤ i1) →
      exec (.bpmask cb pi) s =
        .next (if ispow2 n = false then s.takeFault .notPow2 n
          else if n / 2 ≤ i1 then s.takeFault .bpNyquist i1 else s.takeFault .param i0))) ∧
  (∀ (cb : Fin 4) (pfs pf0 pbw : Fin 16) (s : State),
    let n := s.clen cb
    let e := bpedge n (s.getP pfs) (s.getP pf0) (s.getP pbw)
    encode (.bpf cb pfs pf0 pbw) = wordR 0x42 cb pfs pf0 pbw 0 0 ∧
    (∀ i0 i1, ispow2 n = true → e = .ok (i0, i1) →
      ∃ B, exec (.bpf cb pfs pf0 pbw) s = .next { s with CB := s.CB.set cb B, pc := s.pc + 1 } ∧
        B.len = n ∧ B.holdsCplx cb (bpmask i0 i1 (s.cplxBuf cb))) ∧
    (ispow2 n = false → exec (.bpf cb pfs pf0 pbw) s = .next (s.takeFault .notPow2 n)) ∧
    (∀ c v, ispow2 n = true → e = .error (c, v) → exec (.bpf cb pfs pf0 pbw) s = .next (s.takeFault c v)))

/-- 44_bandpass R257, with the mask of R253: twice is once, bit for bit. -/
def Obligations.MaskIdempotent : Prop :=
  ∀ (i0 i1 : Nat) (x : List Cplx), bpmask i0 i1 (bpmask i0 i1 x) = bpmask i0 i1 x

/-! ## 45 and 46: products, correlation -/

/-- 45_convolution R271, R273 (with R270, R272): `CMULV` and `CONV`, the side results included. -/
def Obligations.SpectralProducts : Prop :=
  (∀ (cd cs : Fin 4) (s : State),
    encode (.cmulv cd cs) = wordR 0x50 cd cs 0 0 0 0 ∧
    (s.clen cs = s.clen cd →
      ∃ B, exec (.cmulv cd cs) s = .next { s with CB := s.CB.set cd B, pc := s.pc + 1 } ∧
        B.holdsCplx cd ((List.range (s.clen cd)).map fun i => cmul (s.readCplx cd i) (s.readCplx cs i))) ∧
    (s.clen cs ≠ s.clen cd → exec (.cmulv cd cs) s = .next (s.takeFault .lenMismatch (s.clen cs)))) ∧
  (∀ (rd ra rb ca cb : Fin 4) (ps : Fin 16) (s : State),
    let gen := s.cfg.twiddle
    let size := s.idx ps
    let a := rfft gen (s.realBuf ra) size
    let b := rfft gen (s.realBuf rb) size
    let c := ifft gen ((List.range size).map fun i => cmul (at_ a i) (at_ b i))
    encode (.conv rd ra rb ca cb ps) = wordR 0x51 rd ra rb ca cb ps ∧
    (ca ≠ cb → ispow2 size = true → size ≤ s.cap → s.rlen ra ≤ size → s.rlen rb ≤ size →
      ∃ A B R, exec (.conv rd ra rb ca cb ps) s =
          .next { s with CB := (s.CB.set ca A).set cb B, RB := s.RB.set rd R, pc := s.pc + 1 } ∧
        A.len = size ∧ A.holdsCplx ca c ∧ B.len = size ∧ B.holdsCplx cb b ∧
        R.len = size ∧ R.holdsReal rd (c.map fun z => z.re)) ∧
    (¬ (ca ≠ cb ∧ ispow2 size = true ∧ size ≤ s.cap ∧ s.rlen ra ≤ size ∧ s.rlen rb ≤ size) →
      exec (.conv rd ra rb ca cb ps) s =
        .next (if ca = cb then s.takeFault .aliased ca.val
          else if ispow2 size = false then s.takeFault .notPow2 size
          else if s.cap < size then s.takeFault .bounds size
          else if size < s.rlen ra then s.takeFault .bounds (s.rlen ra)
          else s.takeFault .bounds (s.rlen rb))))

/-- 46_xcorr R282, R283, R285, R286 (with R280, R281, R284, R288): conjugate, whiten, the filter spectrum, and the
correlation, which overwrites the signal and does not write the filter bank. -/
def Obligations.Correlation : Prop :=
  (∀ (cb : Fin 4) (s : State),
    encode (.conjv cb) = wordR 0x60 cb 0 0 0 0 0 ∧ encode (.whiten cb) = wordR 0x61 cb 0 0 0 0 0 ∧
    (∃ B, exec (.conjv cb) s = .next { s with CB := s.CB.set cb B, pc := s.pc + 1 } ∧
      B.len = s.clen cb ∧ B.holdsCplx cb ((s.cplxBuf cb).map fun z => ⟨z.re, z.im ^^^ 0x80000000#32⟩)) ∧
    (∃ B, exec (.whiten cb) s = .next { s with CB := s.CB.set cb B, pc := s.pc + 1 } ∧
      B.len = s.clen cb ∧ B.holdsCplx cb ((s.cplxBuf cb).map cnorm))) ∧
  (∀ z : Cplx, cconj (cconj z) = z) ∧
  (∀ (cf rs : Fin 4) (ps : Fin 16) (s : State),
    let size := s.idx ps
    let l := s.rlen rs
    encode (.xcinit cf rs ps) = wordR 0x62 cf rs ps 0 0 0 ∧
    (ispow2 size = true → size ≤ s.cap → l ≤ size →
      ∃ B, exec (.xcinit cf rs ps) s = .next { s with CB := s.CB.set cf B, pc := s.pc + 1 } ∧
        B.len = size ∧ B.holdsCplx cf ((rfft s.cfg.twiddle (s.realBuf rs) size).map cconj)) ∧
    (¬ (ispow2 size = true ∧ size ≤ s.cap ∧ l ≤ size) →
      exec (.xcinit cf rs ps) s =
        .next (if ispow2 size = false then s.takeFault .notPow2 size
          else if s.cap < size then s.takeFault .bounds size else s.takeFault .bounds l))) ∧
  (∀ (rsig cf cw : Fin 4) (s : State),
    let gen := s.cfg.twiddle
    let n := s.clen cf
    let spectrum := (rfft gen (s.realBuf rsig) n).map cnorm
    let w := ifft gen ((List.range n).map fun i => cmul (at_ spectrum i) (s.readCplx cf i))
    encode (.xcorr rsig cf cw) = wordR 0x63 rsig cf cw 0 0 0 ∧
    (cw ≠ cf → ispow2 n = true → s.rlen rsig = n →
      ∃ W R, exec (.xcorr rsig cf cw) s =
          .next { s with CB := s.CB.set cw W, RB := s.RB.set rsig R, pc := s.pc + 1 } ∧
        W.len = n ∧ W.holdsCplx cw w ∧ R.len = n ∧ R.holdsReal rsig (w.map fun z => z.re)) ∧
    (¬ (cw ≠ cf ∧ ispow2 n = true ∧ s.rlen rsig = n) →
      exec (.xcorr rsig cf cw) s =
        .next (if cw = cf then s.takeFault .aliased cw.val
          else if ispow2 n = false then s.takeFault .notPow2 n
          else s.takeFault .lenMismatch (s.rlen rsig))))

/-! ## 47 and 48: resampler, Hilbert unit -/

/-- 47_resample R303, R304, R305 (with R302): the two steps alone and the whole pipeline, the side results included. -/
def Obligations.Resampling : Prop :=
  (∀ (cd cs : Fin 4) (pt : Fin 16) (s : State),
    let n0 := s.clen cs
    let t := s.idx pt
    encode (.zstuff cd cs pt) = wordR 0x70 cd cs pt 0 0 0 ∧
    (cd ≠ cs → ispow2 n0 = true → ispow2 t = true → t * n0 ≤ s.cap → 2 ≤ n0 →
      ∃ B, exec (.zstuff cd cs pt) s = .next { s with CB := s.CB.set cd B, pc := s.pc + 1 } ∧
        B.len = t * n0 ∧ B.holdsCplx cd (zstuff (s.cplxBuf cs) t)) ∧
    (¬ (cd ≠ cs ∧ ispow2 n0 = true ∧ ispow2 t = true ∧ t * n0 ≤ s.cap ∧ 2 ≤ n0) →
      exec (.zstuff cd cs pt) s =
        .next (if cd = cs then s.takeFault .aliased cd.val
          else if ispow2 n0 = false then s.takeFault .notPow2 n0
          else if ispow2 t = false then s.takeFault .notPow2 t
          else if s.cap < t * n0 then s.takeFault .bounds (t * n0)
          else s.takeFault .param n0))) ∧
  (∀ (rd cs : Fin 4) (pstep pn : Fin 16) (s : State),
    let step := s.idx pstep
    let n1 := s.idx pn
    encode (.decim rd cs pstep pn) = wordR 0x71 rd cs pstep pn 0 0 ∧
    (n1 ≤ s.cap → step ≠ 0 →
      ∃ B, exec (.decim rd cs pstep pn) s = .next { s with RB := s.RB.set rd B, pc := s.pc + 1 } ∧
        B.len = n1 ∧ B.holdsReal rd (decim (s.cplxBuf cs) step n1)) ∧
    (¬ (n1 ≤ s.cap ∧ step ≠ 0) →
      exec (.decim rd cs pstep pn) s =
        .next (if s.cap < n1 then s.takeFault .bounds n1 else s.takeFault .param 0))) ∧
  (∀ (rd rs ca cb : Fin 4) (pbase : Fin 16) (h : pbase.val + 4 < 16) (s : State),
    let gen := s.cfg.twiddle
    let n0 := (s.getP pbase).toNat
    let n1 := (s.getP ⟨pbase.val + 1, by omega⟩).toNat
    let t := (s.getP ⟨pbase.val + 2, by omega⟩).toNat
    let f0 := s.getP ⟨pbase.val + 3, by omega⟩
    let f1 := s.getP ⟨pbase.val + 4, h⟩
    let l := s.rlen rs
    let q := F32.fdiv (F32.fmul f0 (F32.u2f t)) f1
    let a := rfft gen (s.realBuf rs) n0
    let w := ifft gen (zstuff a t)
    encode (.resamp rd rs ca cb pbase) = wordR 0x72 rd rs ca cb pbase 0 ∧
    (∀ k : Nat, ca ≠ cb → ispow2 n0 = true → ispow2 t = true → t * n0 ≤ s.cap → l ≤ n0 → n1 ≤ s.cap → 2 ≤ n0 →
      1 ≤ k → F32.f2iRound q = some (k : Int) →
      ∃ A B R, exec (.resamp rd rs ca cb pbase) s =
          .next { s with CB := (s.CB.set ca A).set cb B, RB := s.RB.set rd R, pc := s.pc + 1 } ∧
        A.len = n0 ∧ A.holdsCplx ca a ∧ B.len = t * n0 ∧ B.holdsCplx cb w ∧
        R.len = n1 ∧ R.holdsReal rd (decim w k n1)) ∧
    ((ca = cb ∨ ispow2 n0 = false ∨ ispow2 t = false ∨ s.cap < t * n0 ∨ n0 < l ∨ s.cap < n1 ∨ n0 < 2 ∨
        F32.f2iRound q = none ∨ ∃ k, F32.f2iRound q = some k ∧ k < 1) →
      exec (.resamp rd rs ca cb pbase) s =
        .next (if ca = cb then s.takeFault .aliased ca.val
          else if ispow2 n0 = false then s.takeFault .notPow2 n0
          else if ispow2 t = false then s.takeFault .notPow2 t
          else if s.cap < t * n0 then s.takeFault .bounds (t * n0)
          else if n0 < l then s.takeFault .bounds l
          else if s.cap < n1 then s.takeFault .bounds n1
          else if n0 < 2 then s.takeFault .param n0
          else s.takeFault .param q.toNat)))

/-- 48_hilbert R322, R323 (with R325): the rotation in place and the whole unit; the class of bin `N/2` is the parameter
`HIL_NYQ_CLASS`. -/
def Obligations.Quadrature : Prop :=
  (∀ (cb : Fin 4) (s : State),
    let n := s.clen cb
    encode (.hrot cb) = wordR 0x80 cb 0 0 0 0 0 ∧
    (ispow2 n = true →
      ∃ B, exec (.hrot cb) s = .next { s with CB := s.CB.set cb B, pc := s.pc + 1 } ∧
        B.len = n ∧ B.holdsCplx cb (hrot s.cfg.hilNyq (s.cplxBuf cb))) ∧
    (ispow2 n = false → exec (.hrot cb) s = .next (s.takeFault .notPow2 n))) ∧
  (∀ (cd rs : Fin 4) (pn : Fin 16) (s : State),
    let gen := s.cfg.twiddle
    let n := s.idx pn
    let l := s.rlen rs
    let w := ifft gen (hrot s.cfg.hilNyq (rfft gen (s.realBuf rs) n))
    encode (.hilb cd rs pn) = wordR 0x81 cd rs pn 0 0 0 ∧
    (ispow2 n = true → n ≤ s.cap → l ≤ n →
      ∃ B, exec (.hilb cd rs pn) s = .next { s with CB := s.CB.set cd B, pc := s.pc + 1 } ∧
        B.len = l ∧ B.holdsCplx cd ((List.range l).map fun k => ⟨s.readReal rs k, (at_ w k).re⟩)) ∧
    (¬ (ispow2 n = true ∧ n ≤ s.cap ∧ l ≤ n) →
      exec (.hilb cd rs pn) s =
        .next (if ispow2 n = false then s.takeFault .notPow2 n
          else if s.cap < n then s.takeFault .bounds n else s.takeFault .bounds l)))

/-- 43_real_adapter R230, 44_bandpass R253, 47_resample R300, R301: the buffer functions sample by sample. -/
def Obligations.SampleFormulas : Prop :=
  (∀ (x : List F32) (size : Nat), x.length ≤ size →
    (lift x size).length = size ∧
    ∀ n, n < size → at_ (lift x size) n =
      if n < x.length then ⟨x.getD n F32.zero, 0x00000000#32⟩ else ⟨0x00000000#32, 0x00000000#32⟩) ∧
  (∀ (x : List Cplx) (i0 i1 : Nat), i0 ≤ i1 → i1 < x.length / 2 →
    (bpmask i0 i1 x).length = x.length ∧
    ∀ k, k < x.length → at_ (bpmask i0 i1 x) k =
      if (i0 ≤ k ∧ k ≤ i1) ∨ (x.length - i1 - 1 ≤ k ∧ k ≤ x.length - i0 - 1) then at_ x k
      else ⟨0x00000000#32, 0x00000000#32⟩) ∧
  (∀ (u : List Cplx) (t : Nat), ispow2 u.length = true → 2 ≤ u.length → 1 ≤ t →
    (zstuff u t).length = t * u.length ∧ zstuff u 1 = u ∧
    ∀ k, k < t * u.length → at_ (zstuff u t) k =
      if k < u.length / 2 then at_ u k
      else if k < t * u.length - u.length / 2 then ⟨0x00000000#32, 0x00000000#32⟩
      else at_ u (k - (t * u.length - u.length))) ∧
  (∀ (w : List Cplx) (step n1 : Nat), 1 ≤ step →
    (decim w step n1).length = n1 ∧
    ∀ n, n < n1 → (decim w step n1).getD n F32.zero =
      if n * step < w.length then (at_ w (n * step)).re else 0x00000000#32)

/-- 48_hilbert R320, R321: which bin gets which rotation, for the decided default class of bin `N/2`, and that a
rotation undoes the other; with R322's "applying it twice negates every bin except bin 0". -/
def Obligations.HilbertRotations : Prop :=
  (∀ z : Cplx, rotp z = ⟨z.im, F32.fneg z.re⟩ ∧ rotn z = ⟨F32.fneg z.im, z.re⟩ ∧ rotn (rotp z) = z) ∧
  (∀ u : List Cplx, ispow2 u.length = true →
    (hrot .negative u).length = u.length ∧
    (∀ k, k < u.length → at_ (hrot .negative u) k =
      if k = 0 then at_ u 0 else if k < u.length / 2 then rotp (at_ u k) else rotn (at_ u k)) ∧
    (∀ k, k < u.length → at_ (hrot .negative (hrot .negative u)) k =
      if k = 0 then at_ u 0 else ⟨F32.fneg (at_ u k).re, F32.fneg (at_ u k).im⟩))

/-! ## 49: Walsh generator -/

/-- 49_walsh R333, R335, R334: the order, one entry with its recursion chain, and the whole table. -/
def Obligations.WalshCommands : Prop :=
  (∀ (pn : Fin 16) (s : State),
    let n := s.idx pn
    encode (.words pn) = wordR 0x90 pn 0 0 0 0 0 ∧
    (1 ≤ n → n ≤ s.cfg.wLogDim + 1 →
      ∃ wt, exec (.words pn) s = .next { s with WORD := n, WT := wt, pc := s.pc + 1 } ∧
        ∀ i j, ({ s with WT := wt } : State).cell i j = none) ∧
    (n < 1 ∨ s.cfg.wLogDim + 1 < n → exec (.words pn) s = .next (s.takeFault .param n))) ∧
  (∀ (pd pi pj : Fin 16) (s : State), s.Inv →
    let i := s.idx pi
    let j := s.idx pj
    let d := 2 ^ (s.WORD - 1)
    encode (.wget pd pi pj) = wordR 0x91 pd pi pj 0 0 0 ∧
    (s.WORD ≠ 0 → i < d → j < d →
      ∃ wt, exec (.wget pd pi pj) s =
          .next { s with
            P := s.P.set pd (match walsh s.cfg.walshNeg s.WORD i j with | .pos => 0x00000001#32 | .neg => 0xFFFFFFFF#32)
            WT := wt, pc := s.pc + 1 } ∧
        ∀ a b, a < s.cfg.wDim → b < s.cfg.wDim →
          ((∃ m, 1 ≤ m ∧ m ≤ s.WORD ∧ a = i % 2 ^ (m - 1) ∧ b = j % 2 ^ (m - 1)) →
            ({ s with WT := wt } : State).cell a b = some (walsh s.cfg.walshNeg s.WORD a b)) ∧
          ((¬ ∃ m, 1 ≤ m ∧ m ≤ s.WORD ∧ a = i % 2 ^ (m - 1) ∧ b = j % 2 ^ (m - 1)) →
            ({ s with WT := wt } : State).cell a b = s.cell a b)) ∧
    (¬ (s.WORD ≠ 0 ∧ i < d ∧ j < d) →
      exec (.wget pd pi pj) s =
        .next (if s.WORD = 0 then s.takeFault .walshState 0
          else if d ≤ i then s.takeFault .bounds i else s.takeFault .bounds j))) ∧
  (∀ s : State, s.Inv →
    let d := 2 ^ (s.WORD - 1)
    encode .wfill = 0x92000000#32 ∧
    (s.WORD ≠ 0 →
      ∃ wt, exec .wfill s = .next { s with WT := wt, pc := s.pc + 1 } ∧
        ({ s with WT := wt } : State).wfull = true ∧
        ∀ i j, i < s.cfg.wDim → j < s.cfg.wDim →
          ({ s with WT := wt } : State).cell i j =
            if i < d ∧ j < d then some (walsh s.cfg.walshNeg s.WORD i j) else none) ∧
    (s.WORD = 0 → exec .wfill s = .next (s.takeFault .walshState 0)))

/-- 49_walsh R331: the recursion, and that the table of an order is the upper-left quadrant of the next one's under
either rule. -/
def Obligations.WalshRecursion : Prop :=
  ∀ rule : Config.WalshNegRule,
    (∀ i j, walsh rule 1 i j = .pos) ∧
    (∀ n i j, 2 ≤ n → i < 2 ^ (n - 1) → j < 2 ^ (n - 1) →
      (walsh rule n i j).toInt =
        (match rule with
          | .both => if 2 ^ (n - 2) ≤ i ∧ 2 ^ (n - 2) ≤ j then -1 else 1
          | .exactlyOne => if (2 ^ (n - 2) ≤ i) ↔ (2 ^ (n - 2) ≤ j) then 1 else -1) *
          (walsh rule (n - 1) (i % 2 ^ (n - 2)) (j % 2 ^ (n - 2))).toInt) ∧
    (∀ n i j, 2 ≤ n → i < 2 ^ (n - 2) → j < 2 ^ (n - 2) → walsh rule n i j = walsh rule (n - 1) i j)

/-- 49_walsh R337: orthogonality under the rule `both`, symmetry, the constant row and column, and the two printed
tables of order 3. -/
def Obligations.WalshOrthogonal : Prop :=
  (∀ n i k, 1 ≤ n → i < 2 ^ (n - 1) → k < 2 ^ (n - 1) →
    ((List.range (2 ^ (n - 1))).map fun j => (walsh .both n i j).toInt * (walsh .both n k j).toInt).sum =
      if i = k then 2 ^ (n - 1) else 0) ∧
  (∀ n i j, walsh .both n i j = walsh .both n j i) ∧
  (∀ n i, walsh .both n 0 i = .pos ∧ walsh .both n i 0 = .pos) ∧
  ((List.range 4).map fun i => (List.range 4).map fun j => (walsh .both 3 i j).toInt) =
    [[1, 1, 1, 1], [1, -1, 1, -1], [1, 1, -1, -1], [1, -1, -1, 1]] ∧
  ((List.range 4).map fun i => (List.range 4).map fun j => (walsh .exactlyOne 3 i j).toInt) =
    [[1, -1, -1, 1], [-1, 1, 1, -1], [-1, 1, 1, -1], [1, -1, -1, 1]]

/-- 49_walsh R336: a set cell is never changed by a command other than `WORDS`, and which cells are set changes no other
part of what a command does. -/
def Obligations.WalshMemo : Prop :=
  (∀ (i : Instr) (s t : State) (a b : Nat) (v : Sign), (∀ pn, i ≠ .words pn) → exec i s = .next t →
    s.cell a b = some v → t.cell a b = some v) ∧
  (∀ (i : Instr) (s t : State) (wt : Sparse Sign), exec i s = .next t →
    ∃ wt', exec i { s with WT := wt } = .next { t with WT := wt' })

/-! ## Statements about every command -/

/-- 40_sequencer_and_move R130, 60_exceptions R371, 10_state R32: a running engine's command always answers a next
state, and it is one of three: the fault entry from the state before it (so nothing of the command happened), `HALT`'s,
or a completed command with `pc + 1`, still running. -/
def Obligations.CommandEnds : Prop :=
  ∀ (i : Instr) (s : State), s.STATE = .run →
    ∃ t, exec i s = .next t ∧
      ((t.STATE = .fault ∧ ∃ c v, t = s.takeFault c v) ∨
       (i = .halt ∧ t = { s with STATE := .halted }) ∨
       (i ≠ .halt ∧ t.STATE = .run ∧ t.pc = s.pc + 1))

/-- 60_exceptions R351: the codes, and that a command raises only the causes whose row lists it. -/
def Obligations.FaultCauses : Prop :=
  ([.illegalCmd, .pcRange, .notPow2, .bounds, .lenMismatch, .bpWidth, .bpNyquist, .divZero, .aliased, .param,
      .walshState].map Cause.code = [1, 2, 3, 4, 5, 6, 7, 8, 9, 10, 11]) ∧
  (∀ (i : Instr) (s t : State), s.STATE = .run → exec i s = .next t → t.STATE = .fault →
    ∃ c v, t = s.takeFault c v ∧ i.mnemonic ∈ c.raisedBy)

/-- The frame of the registers (10_state R31, R34: "Written by"): a command changes no scalar and no complex register
but its destinations. -/
def Obligations.FrameRegisters : Prop :=
  ∀ (i : Instr) (s t : State), exec i s = .next t →
    (∀ r, i.writesP r = false → t.getP r = s.getP r) ∧ (∀ r, i.writesZ r = false → t.getZ r = s.getZ r)

/-- The frame of the banks: every length and every word of every bank a command does not name as a destination or as a
work bank reads as before. What a store into one of its own banks leaves is in the statements of the commands. -/
def Obligations.FrameBanks : Prop :=
  ∀ (i : Instr) (s t : State), exec i s = .next t →
    (∀ r, i.writesR r = false → t.rlen r = s.rlen r ∧ ∀ k, t.readReal r k = s.readReal r k) ∧
    (∀ b, i.writesC b = false → t.clen b = s.clen b ∧ ∀ k, t.readCplxWord b k = s.readCplxWord b k)

/-- The frame of the rest (10_state R35, R38, R47, R49; 20_memory R93): no command writes the command memory, the
interrupt enable, the parameters or the host's side; the fault record is written by fault entry alone; the Walsh state
by its three commands alone. -/
def Obligations.FrameControl : Prop :=
  ∀ (i : Instr) (s t : State), s.STATE = .run → exec i s = .next t →
    t.IE = s.IE ∧ (∀ a, t.readCM a = s.readCM a) ∧ t.cfg = s.cfg ∧ t.host = s.host ∧ t.hostGot = s.hostGot ∧
    (t.STATE ≠ .fault → t.FCAUSE = s.FCAUSE ∧ t.FPC = s.FPC ∧ t.FINFO = s.FINFO) ∧
    (i.writesWalsh = false → t.WORD = s.WORD ∧ ∀ a b, t.cell a b = s.cell a b)

/-- The model's choices. Log entry 13: a command that transforms a complex bank in place keeps its length and leaves the
words beyond it as they are; so does `XCORR` for the signal it overwrites. Log entry 14: a host write that raises a length
register, or keeps it, leaves every word of the bank as it is, those beyond the old length included. -/
def Obligations.FrameBeyondLength : Prop :=
  (∀ (i : Instr) (s t : State) (cb : Fin 4), i.inPlaceC = some cb → exec i s = .next t →
    t.clen cb = s.clen cb ∧ ∀ k, 2 * s.clen cb ≤ k → t.readCplxWord cb k = s.readCplxWord cb k) ∧
  (∀ (rsig cf cw : Fin 4) (s t : State), exec (.xcorr rsig cf cw) s = .next t →
    t.rlen rsig = s.rlen rsig ∧ ∀ k, s.rlen rsig ≤ k → t.readReal rsig k = s.readReal rsig k) ∧
  (∀ (s : State) (v : Word) (r : Fin 4), v.toNat ≤ s.cap →
    (s.rlen r ≤ v.toNat → ∀ k, (s.writeHostWord v (.rlen r)).readReal r k = s.readReal r k) ∧
    (s.clen r ≤ v.toNat → ∀ k, (s.writeHostWord v (.clen r)).readCplxWord r k = s.readCplxWord r k))

/-- The sequences the rules call exactly another command, the second command run where the first one left off: `BITREV`
then `BFLY fwd` is `FFT` (42_fft_engine R213), `LIFT` then `FFT` is `RFFT` (43_real_adapter R235), `RFFT` then `CONJV` is
`XCINIT` (46_xcorr R285), `BPEDGE` then `BPMASK` without the register writes is `BPF` (44_bandpass R256), `DECIM` with
step 1 and count `CLEN` is `REALP` (47_resample R304), `RFFTG` with one group is `RFFT` with the scratch bank receiving a
copy of the result (43_real_adapter R236; R233 says the same of the functions). -/
def Obligations.CommandSequences : Prop :=
  (∀ (cb : Fin 4) (s : State), ispow2 (s.clen cb) = true →
    ∃ t u, exec (.bitrev cb) s = .next t ∧ exec (.bfly cb .fwd) t = .next u ∧
      exec (.fft cb) s = .next { u with pc := s.pc + 1 }) ∧
  (∀ (cd rs : Fin 4) (ps : Fin 16) (s : State),
    ispow2 (s.idx ps) = true → s.idx ps ≤ s.cap → s.rlen rs ≤ s.idx ps →
    (∃ t u, exec (.lift cd rs ps) s = .next t ∧ exec (.fft cd) t = .next u ∧
      exec (.rfft cd rs ps) s = .next { u with pc := s.pc + 1 }) ∧
    (∃ t u, exec (.rfft cd rs ps) s = .next t ∧ exec (.conjv cd) t = .next u ∧
      exec (.xcinit cd rs ps) s = .next { u with pc := s.pc + 1 })) ∧
  (∀ (cb : Fin 4) (pd pn pfs pf0 pbw : Fin 16) (s : State) (i0 i1 : Nat),
    s.cfg.wf = true → pd.val ≤ 12 → s.idx pn = s.clen cb → s.clen cb ≤ s.cap → ispow2 (s.clen cb) = true →
    bpedge (s.clen cb) (s.getP pfs) (s.getP pf0) (s.getP pbw) = .ok (i0, i1) → i0 ≤ i1 →
    ∃ t u, exec (.bpedge pd pn pfs pf0 pbw) s = .next t ∧ exec (.bpmask cb pd) t = .next u ∧
      exec (.bpf cb pfs pf0 pbw) s = .next { u with P := s.P, pc := s.pc + 1 }) ∧
  (∀ (rd cs : Fin 4) (pstep pn : Fin 16) (s : State), s.idx pstep = 1 → s.idx pn = s.clen cs → s.clen cs ≤ s.cap →
    exec (.decim rd cs pstep pn) s = exec (.realp rd cs) s) ∧
  (∀ (gen : Config.TwiddleGen) (x : List F32) (b : Nat), ispow2 b = true → x.length ≤ b →
    rfftg gen x b 1 = rfft gen x b ∧ (groupParts gen x b 1).flatten = rfft gen x b) ∧
  (∀ (cd rs cs : Fin 4) (pb pg : Fin 16) (s : State), cd ≠ cs → s.idx pg = 1 →
    ispow2 (s.idx pb) = true → s.idx pb ≤ s.cap → s.rlen rs ≤ s.idx pb →
    ∃ t u, exec (.rfft cd rs pb) s = .next t ∧ exec (.ccopy cs cd) t = .next u ∧
      exec (.rfftg cd rs cs pb pg) s = .next { u with pc := s.pc + 1 })

/-- 10_state R46: no command's effect depends on a sample at or beyond its bank's length. Two states that agree on all
that a command can see are led to two states that agree on it. -/
def Obligations.UnseenSamples : Prop :=
  ∀ (i : Instr) (s s' t : State), s.SameToCommands s' → exec i s = .next t →
    ∃ t', exec i s' = .next t' ∧ t.SameToCommands t'

/-! ## Statements about every step and every run -/

/-- The invariant is kept by every step, the engine's and the host's, from every state that meets it. -/
def Obligations.InvariantKept : Prop := ∀ s t : State, s.Inv → step s = .next t → t.Inv

/-- 20_memory R85: "Every command sequence reaches one of the two", here with a bound: a run with no host turn to come
ends within `CMDCAP - pc + 1` steps, whatever the command memory holds. -/
def Obligations.RunEnds : Prop :=
  ∀ s : State, s.host = [] → s.STATE = .run → s.pc ≤ s.cfg.cmdCap →
    ∃ n t, n ≤ s.cfg.cmdCap - s.pc + 1 ∧ Host.Core.run Sys2Proof.core n s = .next t ∧ State.Ended t

/-! ## Numerics -/

/-- 00_scope R12: each operation on finite operands is the exact result rounded once, to nearest, ties to even,
subnormals kept, overflow to infinity. From which size on a result overflows (`2 ^ 128 - 2 ^ 103`, in `F32.IsRounded`) is
IEEE 754's and is log entry 7. The sign of a zero result is in `SpecialOperands`. -/
def Obligations.RoundedOnce : Prop :=
  (∀ x y : F32, F32.isFinite x = true → F32.isFinite y = true →
    F32.IsRounded (F32.value x + F32.value y) (F32.fadd x y) ∧
    F32.IsRounded (F32.value x - F32.value y) (F32.fsub x y) ∧
    F32.IsRounded (F32.value x * F32.value y) (F32.fmul x y) ∧
    (F32.feq0 y = false → F32.IsRounded (F32.value x / F32.value y) (F32.fdiv x y))) ∧
  (∀ x : F32, F32.isFinite x = true → F32.sign x = false →
    F32.IsNearest (Real.sqrt (F32.value x)) (F32.fsqrt x))

/-- 00_scope R12: the operands that are not finite, the zeros, the comparisons and the conversions. A NaN result is only
said to be a NaN (log entry 4). `inf - inf`, `0 / 0`, `x / 0`, the roots of `-0` and of a negative number are R12's own
words; `inf * 0` is 41_complex_alu R178's, `x / inf = ±0` and `inf / inf` R168's, `(+0) + (-0) = +0` R176's, `x - x = +0`
R177's. The other results on infinities, the sign of an infinity, and the sign of a zero that is a sum, a product or a
quotient, are those of IEEE 754 (log entry 7). -/
def Obligations.SpecialOperands : Prop :=
  (∀ x y : F32, F32.isNaN x = true ∨ F32.isNaN y = true →
    F32.isNaN (F32.fadd x y) = true ∧ F32.isNaN (F32.fsub x y) = true ∧ F32.isNaN (F32.fmul x y) = true ∧
    F32.isNaN (F32.fdiv x y) = true ∧ F32.flt x y = false ∧ F32.fle x y = false ∧ F32.fge x y = false) ∧
  (∀ x : F32, F32.isNaN x = true → F32.isNaN (F32.fsqrt x) = true) ∧
  -- sums with an infinity
  (∀ x : F32, F32.isInf x = true → F32.isNaN (F32.fsub x x) = true ∧ F32.isNaN (F32.fadd x (F32.fneg x)) = true ∧
    F32.fadd x x = x ∧ F32.fsub x (F32.fneg x) = x) ∧
  (∀ x y : F32, F32.isInf x = true → F32.isFinite y = true →
    F32.fadd x y = x ∧ F32.fadd y x = x ∧ F32.fsub x y = x ∧ F32.fsub y x = F32.fneg x) ∧
  -- products with an infinity
  (∀ x y : F32, F32.isInf x = true → F32.feq0 y = true →
    F32.isNaN (F32.fmul x y) = true ∧ F32.isNaN (F32.fmul y x) = true) ∧
  (∀ x y : F32, F32.isInf x = true → F32.isNaN y = false → F32.feq0 y = false →
    let r := if F32.sign x = F32.sign y then 0x7F800000#32 else 0xFF800000#32
    F32.fmul x y = r ∧ F32.fmul y x = r) ∧
  -- quotients with an infinity or a zero divisor
  (∀ x y : F32, F32.isInf x = true → F32.isInf y = true → F32.isNaN (F32.fdiv x y) = true) ∧
  (∀ x y : F32, F32.isInf x = true → F32.isFinite y = true →
    F32.fdiv x y = if F32.sign x = F32.sign y then 0x7F800000#32 else 0xFF800000#32) ∧
  (∀ x y : F32, F32.isFinite x = true → F32.isInf y = true →
    F32.fdiv x y = if F32.sign x = F32.sign y then 0x00000000#32 else 0x80000000#32) ∧
  (∀ x y : F32, F32.feq0 x = true → F32.feq0 y = true → F32.isNaN (F32.fdiv x y) = true) ∧
  (∀ x y : F32, F32.isFinite x = true → F32.feq0 x = false → F32.feq0 y = true →
    F32.fdiv x y = if F32.sign x = F32.sign y then 0x7F800000#32 else 0xFF800000#32) ∧
  -- the sign of a zero
  (F32.fadd 0x00000000#32 0x80000000#32 = 0x00000000#32 ∧ F32.fadd 0x80000000#32 0x00000000#32 = 0x00000000#32) ∧
  (∀ x : F32, F32.isFinite x = true → F32.fsub x x = 0x00000000#32) ∧
  (∀ x y : F32, F32.isFinite x = true → F32.isFinite y = true →
    (F32.value x + F32.value y = 0 →
      F32.fadd x y = if x = 0x80000000#32 ∧ y = 0x80000000#32 then 0x80000000#32 else 0x00000000#32) ∧
    (F32.value x = F32.value y →
      F32.fsub x y = if x = 0x80000000#32 ∧ y = 0x00000000#32 then 0x80000000#32 else 0x00000000#32) ∧
    F32.sign (F32.fmul x y) = (F32.sign x != F32.sign y) ∧
    (F32.feq0 y = false → F32.sign (F32.fdiv x y) = (F32.sign x != F32.sign y))) ∧
  -- roots
  F32.fsqrt 0x7F800000#32 = 0x7F800000#32 ∧
  F32.fsqrt 0x00000000#32 = 0x00000000#32 ∧
  F32.fsqrt 0x80000000#32 = 0x80000000#32 ∧
  (∀ x : F32, F32.sign x = true → F32.feq0 x = false → F32.isNaN (F32.fsqrt x) = true) ∧
  (∀ x : F32, F32.feq0 x = true ↔ x = 0x00000000#32 ∨ x = 0x80000000#32) ∧
  -- comparisons and conversions
  (∀ x y : F32, F32.isFinite x = true → F32.isFinite y = true →
    (F32.flt x y = true ↔ F32.value x < F32.value y) ∧ (F32.fle x y = true ↔ F32.value x ≤ F32.value y) ∧
    (F32.fge x y = true ↔ F32.value y ≤ F32.value x)) ∧
  (∀ y : F32, F32.isNaN y = false →
    F32.fle y 0x7F800000#32 = true ∧ F32.fle 0xFF800000#32 y = true ∧ F32.fge 0x7F800000#32 y = true ∧
    F32.fge y 0xFF800000#32 = true ∧ (F32.flt y 0x7F800000#32 = true ↔ y ≠ 0x7F800000#32) ∧
    (F32.flt 0xFF800000#32 y = true ↔ y ≠ 0xFF800000#32)) ∧
  (∀ n : Nat, n ≤ 2 ^ 24 → F32.isFinite (F32.u2f n) = true ∧ F32.value (F32.u2f n) = n) ∧
  (∀ x : F32, (F32.f2iTrunc x = none ↔ F32.isFinite x = false) ∧ (F32.f2iRound x = none ↔ F32.isFinite x = false)) ∧
  (∀ (x : F32) (k : Int), F32.f2iTrunc x = some k →
    (k.natAbs : ℚ) ≤ |F32.value x| ∧ |F32.value x| < k.natAbs + 1 ∧ 0 ≤ (k : ℚ) * F32.value x) ∧
  (∀ (x : F32) (k : Int), F32.f2iRound x = some k →
    (k.natAbs : ℚ) ≤ |F32.value x| + 1 / 2 ∧ |F32.value x| + 1 / 2 < k.natAbs + 1 ∧ 0 ≤ (k : ℚ) * F32.value x)

end
end

