-- ==== Sys2Proof/Laws/Memory.lean ====
section
/-! SUPPORT. Sparse tables and memories: what a lookup finds after each operation, and that every operation keeps the
canonical form (log entry 3). -/

namespace Sys2Proof.Machine

open Sys2Proof

namespace Sparse

variable {α : Type}

@[simp] theorem lookup_nil (i : Nat) : lookup ([] : Sparse α) i = none := rfl

@[simp] theorem lookup_put_same (t : Sparse α) (i : Nat) (v : α) : lookup (put t i v) i = some v := by
  induction t with
  | nil => simp [put, lookup]
  | cons c t ih =>
    obtain ⟨k, w⟩ := c
    by_cases h1 : i < k
    · simp [put, lookup, h1]
    · by_cases h2 : i = k
      · simp [put, lookup, h2]
      · have h3 : ¬ k = i := fun e => h2 e.symm
        simp [put, lookup, h1, h2, h3, ih]

theorem lookup_put_ne (t : Sparse α) {i j : Nat} (v : α) (h : j ≠ i) : lookup (put t i v) j = lookup t j := by
  have h' : ¬ i = j := fun e => h e.symm
  induction t with
  | nil => simp [put, lookup, h']
  | cons c t ih =>
    obtain ⟨k, w⟩ := c
    by_cases h1 : i < k
    · simp [put, lookup, h1, h']
    · by_cases h2 : i = k
      · subst h2
        simp [put, lookup, h']
      · simp [put, lookup, h1, h2, ih]

theorem lookup_listed (vs : List α) (k i : Nat) : lookup (listed k vs) i = if k ≤ i then vs[i - k]? else none := by
  induction vs generalizing k with
  | nil => simp [listed]
  | cons v vs ih =>
    simp only [listed, lookup, ih]
    by_cases h : k = i
    · simp [h]
    · by_cases h2 : k ≤ i
      · have h3 : k + 1 ≤ i := by omega
        have h4 : i - k = (i - (k + 1)) + 1 := by omega
        simp [h, h2, h3, h4]
      · have h3 : ¬ k + 1 ≤ i := by omega
        simp [h, h2, h3]

theorem lookup_append (t u : Sparse α) (i : Nat) : lookup (t ++ u) i = (lookup t i).or (lookup u i) := by
  induction t with
  | nil => simp
  | cons c t ih =>
    obtain ⟨k, w⟩ := c
    by_cases h : k = i <;> simp [lookup, h, ih]

theorem lookup_atLeast (t : Sparse α) (n i : Nat) : lookup (atLeast n t) i = if n ≤ i then lookup t i else none := by
  induction t with
  | nil => simp [atLeast]
  | cons c t ih =>
    obtain ⟨k, w⟩ := c
    unfold atLeast at ih ⊢
    by_cases h : n ≤ k
    · by_cases h2 : k = i
      · subst h2
        simp [lookup, h]
      · simp [lookup, h, h2, ih]
    · by_cases h2 : k = i
      · subst h2
        simp [h, ih]
      · simp [lookup, h, h2, ih]

/-! ### The canonical form -/

theorem risingFrom_mono (t : Sparse α) {lo lo' hi : Nat} (h : risingFrom lo hi t = true) (hl : lo' ≤ lo) :
    risingFrom lo' hi t = true := by
  cases t with
  | nil => rfl
  | cons c t =>
    simp only [risingFrom, Bool.and_eq_true, decide_eq_true_eq] at h ⊢
    exact ⟨⟨by omega, h.1.2⟩, h.2⟩

theorem risingFrom_put (t : Sparse α) {lo hi i : Nat} (v : α) (h : risingFrom lo hi t = true) (hlo : lo ≤ i)
    (hhi : i < hi) : risingFrom lo hi (put t i v) = true := by
  induction t generalizing lo with
  | nil => simp [put, risingFrom, hlo, hhi]
  | cons c t ih =>
    obtain ⟨k, w⟩ := c
    simp only [risingFrom, Bool.and_eq_true, decide_eq_true_eq] at h
    obtain ⟨⟨h1, h2⟩, h3⟩ := h
    by_cases c1 : i < k
    · simp only [put, c1, if_true, risingFrom, Bool.and_eq_true, decide_eq_true_eq]
      exact ⟨⟨hlo, hhi⟩, ⟨⟨c1, h2⟩, h3⟩⟩
    · by_cases c2 : i = k
      · subst c2
        simp only [put, Nat.lt_irrefl, if_false, if_true, risingFrom, Bool.and_eq_true, decide_eq_true_eq]
        exact ⟨⟨hlo, hhi⟩, h3⟩
      · simp only [put, c1, c2, if_false, risingFrom, Bool.and_eq_true, decide_eq_true_eq]
        exact ⟨⟨h1, h2⟩, ih h3 (by omega)⟩

theorem risingFrom_listed_append (vs : List α) (t : Sparse α) {lo k hi : Nat} (hlo : lo ≤ k) (hhi : k + vs.length ≤ hi)
    (h : risingFrom (k + vs.length) hi t = true) : risingFrom lo hi (listed k vs ++ t) = true := by
  induction vs generalizing lo k with
  | nil => exact risingFrom_mono t h (by simpa using hlo)
  | cons v vs ih =>
    simp only [List.length_cons] at hhi h
    simp only [listed, List.cons_append, risingFrom, Bool.and_eq_true, decide_eq_true_eq]
    refine ⟨⟨hlo, by omega⟩, ih (Nat.le_refl _) (by omega) ?_⟩
    have e : k + 1 + vs.length = k + (vs.length + 1) := by omega
    rw [e]
    exact h

theorem risingFrom_atLeast (t : Sparse α) {lo hi : Nat} (n : Nat) (h : risingFrom lo hi t = true) :
    risingFrom (max lo n) hi (atLeast n t) = true := by
  induction t generalizing lo with
  | nil => rfl
  | cons c t ih =>
    obtain ⟨k, w⟩ := c
    simp only [risingFrom, Bool.and_eq_true, decide_eq_true_eq] at h
    obtain ⟨⟨h1, h2⟩, h3⟩ := h
    have ih' := ih h3
    unfold atLeast at ih' ⊢
    by_cases c1 : n ≤ k
    · have e : max (k + 1) n = k + 1 := by omega
      rw [e] at ih'
      simp only [List.filter_cons, c1, decide_true, if_true, risingFrom, Bool.and_eq_true, decide_eq_true_eq]
      exact ⟨⟨by omega, h2⟩, ih'⟩
    · simp only [List.filter_cons, c1, decide_false]
      exact risingFrom_mono _ ih' (by omega)

end Sparse

namespace Mem

@[simp] theorem read_write_same (g : Config.Region) (m : Mem) (i : Nat) (v : Word) : (m.write i v).read g i = v := by
  simp [read, write]

theorem read_write_ne (g : Config.Region) (m : Mem) {i j : Nat} (v : Word) (h : j ≠ i) :
    (m.write i v).read g j = m.read g j := by
  simp [read, write, Sparse.lookup_put_ne _ _ h]

theorem read_fresh (g : Config.Region) (m : Mem) (ws : List Word) {i : Nat} (h : i < ws.length) :
    (m.fresh ws).read g i = ws[i] := by
  simp [read, fresh, Sparse.lookup_listed, h]

theorem read_overwrite (g : Config.Region) (m : Mem) (ws : List Word) {i : Nat} (h : i < ws.length) :
    (m.overwrite ws).read g i = ws[i] := by
  simp [read, overwrite, Sparse.lookup_append, Sparse.lookup_listed, h]

theorem read_overwrite_beyond (g : Config.Region) (m : Mem) (ws : List Word) {i : Nat} (h : ws.length ≤ i) :
    (m.overwrite ws).read g i = m.read g i := by
  simp [read, overwrite, Sparse.lookup_append, Sparse.lookup_listed, Sparse.lookup_atLeast, h]

/-! ### Every operation keeps the canonical form -/

theorem wf_empty (draw size : Nat) : wf { cells := [], draw := draw } size = true := rfl

theorem wf_write (m : Mem) {size i : Nat} (v : Word) (h : m.wf size = true) (hi : i < size) :
    (m.write i v).wf size = true := Sparse.risingFrom_put _ v h (Nat.zero_le _) hi

theorem wf_fresh (m : Mem) {size : Nat} (ws : List Word) (h : ws.length ≤ size) : (m.fresh ws).wf size = true := by
  have := Sparse.risingFrom_listed_append ws ([] : Sparse Word) (lo := 0) (k := 0) (hi := size) (Nat.le_refl _)
    (by omega) rfl
  simpa [wf, fresh] using this

theorem wf_overwrite (m : Mem) {size : Nat} (ws : List Word) (h : m.wf size = true) (hl : ws.length ≤ size) :
    (m.overwrite ws).wf size = true := by
  refine Sparse.risingFrom_listed_append ws _ (Nat.le_refl _) (by omega) ?_
  have := Sparse.risingFrom_atLeast m.cells ws.length h
  exact Sparse.risingFrom_mono _ this (by omega)

/-- Writing new contents over contents of the same size leaves nothing of the old ones. -/
theorem overwrite_overwrite (m : Mem) (ws vs : List Word) (h : ws.length = vs.length) :
    (m.overwrite ws).overwrite vs = m.overwrite vs := by
  have below : ∀ (k n : Nat) (us : List Word), k + us.length ≤ n → Sparse.atLeast n (Sparse.listed k us) = [] := by
    intro k n us
    induction us generalizing k with
    | nil => intro _; rfl
    | cons u us ih =>
      intro hk
      simp only [List.length_cons] at hk
      have c : ¬ n ≤ k := by omega
      have := ih (k + 1) (by omega)
      unfold Sparse.atLeast at this ⊢
      simpa [Sparse.listed, c] using this
  have e := below 0 vs.length ws (by omega)
  simp only [overwrite, h, Mem.mk.injEq, and_true, List.append_cancel_left_eq]
  unfold Sparse.atLeast at e ⊢
  simp only [List.filter_append, e, List.nil_append, List.filter_filter, Bool.and_self]

theorem fresh_overwrite (m : Mem) (ws vs : List Word) (h : ws.length = vs.length) :
    (m.fresh ws).overwrite vs = m.fresh vs := by
  have e : Sparse.atLeast vs.length (Sparse.listed 0 ws) = [] := by
    have := overwrite_overwrite ({ cells := [], draw := 0 } : Mem) ws vs h
    simpa [overwrite, Sparse.atLeast] using this
  simp [overwrite, fresh, e]

end Mem

end Sys2Proof.Machine
end

