-- ==== Sys2Proof/Laws/State.lean ====
section
/-! SUPPORT. What each update of a state does to each field, one lemma a field, and what the accessors read after it: no
proof needs to unfold a record update. -/

namespace Sys2Proof.Machine.State

open Sys2Proof

/-! ## Fields -/

/-! ### `setP` -/

@[simp] theorem setP_P (s : State) (i : Fin 16) (v : Word) : (s.setP i v).P = s.P.set i v := rfl
@[simp] theorem setP_pc (s : State) (i : Fin 16) (v : Word) : (s.setP i v).pc = s.pc := rfl
@[simp] theorem setP_Z (s : State) (i : Fin 16) (v : Word) : (s.setP i v).Z = s.Z := rfl
@[simp] theorem setP_IE (s : State) (i : Fin 16) (v : Word) : (s.setP i v).IE = s.IE := rfl
@[simp] theorem setP_STATE (s : State) (i : Fin 16) (v : Word) : (s.setP i v).STATE = s.STATE := rfl
@[simp] theorem setP_FCAUSE (s : State) (i : Fin 16) (v : Word) : (s.setP i v).FCAUSE = s.FCAUSE := rfl
@[simp] theorem setP_FPC (s : State) (i : Fin 16) (v : Word) : (s.setP i v).FPC = s.FPC := rfl
@[simp] theorem setP_FINFO (s : State) (i : Fin 16) (v : Word) : (s.setP i v).FINFO = s.FINFO := rfl
@[simp] theorem setP_RB (s : State) (i : Fin 16) (v : Word) : (s.setP i v).RB = s.RB := rfl
@[simp] theorem setP_CB (s : State) (i : Fin 16) (v : Word) : (s.setP i v).CB = s.CB := rfl
@[simp] theorem setP_CM (s : State) (i : Fin 16) (v : Word) : (s.setP i v).CM = s.CM := rfl
@[simp] theorem setP_WORD (s : State) (i : Fin 16) (v : Word) : (s.setP i v).WORD = s.WORD := rfl
@[simp] theorem setP_WT (s : State) (i : Fin 16) (v : Word) : (s.setP i v).WT = s.WT := rfl
@[simp] theorem setP_cfg (s : State) (i : Fin 16) (v : Word) : (s.setP i v).cfg = s.cfg := rfl
@[simp] theorem setP_host (s : State) (i : Fin 16) (v : Word) : (s.setP i v).host = s.host := rfl
@[simp] theorem setP_hostGot (s : State) (i : Fin 16) (v : Word) : (s.setP i v).hostGot = s.hostGot := rfl

/-! ### `setZ` -/

@[simp] theorem setZ_P (s : State) (i : Fin 8) (v : Cplx) : (s.setZ i v).P = s.P := rfl
@[simp] theorem setZ_pc (s : State) (i : Fin 8) (v : Cplx) : (s.setZ i v).pc = s.pc := rfl
@[simp] theorem setZ_Z (s : State) (i : Fin 8) (v : Cplx) : (s.setZ i v).Z = s.Z.set i v := rfl
@[simp] theorem setZ_IE (s : State) (i : Fin 8) (v : Cplx) : (s.setZ i v).IE = s.IE := rfl
@[simp] theorem setZ_STATE (s : State) (i : Fin 8) (v : Cplx) : (s.setZ i v).STATE = s.STATE := rfl
@[simp] theorem setZ_FCAUSE (s : State) (i : Fin 8) (v : Cplx) : (s.setZ i v).FCAUSE = s.FCAUSE := rfl
@[simp] theorem setZ_FPC (s : State) (i : Fin 8) (v : Cplx) : (s.setZ i v).FPC = s.FPC := rfl
@[simp] theorem setZ_FINFO (s : State) (i : Fin 8) (v : Cplx) : (s.setZ i v).FINFO = s.FINFO := rfl
@[simp] theorem setZ_RB (s : State) (i : Fin 8) (v : Cplx) : (s.setZ i v).RB = s.RB := rfl
@[simp] theorem setZ_CB (s : State) (i : Fin 8) (v : Cplx) : (s.setZ i v).CB = s.CB := rfl
@[simp] theorem setZ_CM (s : State) (i : Fin 8) (v : Cplx) : (s.setZ i v).CM = s.CM := rfl
@[simp] theorem setZ_WORD (s : State) (i : Fin 8) (v : Cplx) : (s.setZ i v).WORD = s.WORD := rfl
@[simp] theorem setZ_WT (s : State) (i : Fin 8) (v : Cplx) : (s.setZ i v).WT = s.WT := rfl
@[simp] theorem setZ_cfg (s : State) (i : Fin 8) (v : Cplx) : (s.setZ i v).cfg = s.cfg := rfl
@[simp] theorem setZ_host (s : State) (i : Fin 8) (v : Cplx) : (s.setZ i v).host = s.host := rfl
@[simp] theorem setZ_hostGot (s : State) (i : Fin 8) (v : Cplx) : (s.setZ i v).hostGot = s.hostGot := rfl

/-! ### `setRealBuf` -/

@[simp] theorem setRealBuf_P (s : State) (r : Fin 4) (xs : List F32) : (s.setRealBuf r xs).P = s.P := rfl
@[simp] theorem setRealBuf_pc (s : State) (r : Fin 4) (xs : List F32) : (s.setRealBuf r xs).pc = s.pc := rfl
@[simp] theorem setRealBuf_Z (s : State) (r : Fin 4) (xs : List F32) : (s.setRealBuf r xs).Z = s.Z := rfl
@[simp] theorem setRealBuf_IE (s : State) (r : Fin 4) (xs : List F32) : (s.setRealBuf r xs).IE = s.IE := rfl
@[simp] theorem setRealBuf_STATE (s : State) (r : Fin 4) (xs : List F32) : (s.setRealBuf r xs).STATE = s.STATE := rfl
@[simp] theorem setRealBuf_FCAUSE (s : State) (r : Fin 4) (xs : List F32) : (s.setRealBuf r xs).FCAUSE = s.FCAUSE := rfl
@[simp] theorem setRealBuf_FPC (s : State) (r : Fin 4) (xs : List F32) : (s.setRealBuf r xs).FPC = s.FPC := rfl
@[simp] theorem setRealBuf_FINFO (s : State) (r : Fin 4) (xs : List F32) : (s.setRealBuf r xs).FINFO = s.FINFO := rfl
@[simp] theorem setRealBuf_RB (s : State) (r : Fin 4) (xs : List F32) : (s.setRealBuf r xs).RB = s.RB.set r { len := xs.length, mem := s.RB[r].mem.fresh xs } := rfl
@[simp] theorem setRealBuf_CB (s : State) (r : Fin 4) (xs : List F32) : (s.setRealBuf r xs).CB = s.CB := rfl
@[simp] theorem setRealBuf_CM (s : State) (r : Fin 4) (xs : List F32) : (s.setRealBuf r xs).CM = s.CM := rfl
@[simp] theorem setRealBuf_WORD (s : State) (r : Fin 4) (xs : List F32) : (s.setRealBuf r xs).WORD = s.WORD := rfl
@[simp] theorem setRealBuf_WT (s : State) (r : Fin 4) (xs : List F32) : (s.setRealBuf r xs).WT = s.WT := rfl
@[simp] theorem setRealBuf_cfg (s : State) (r : Fin 4) (xs : List F32) : (s.setRealBuf r xs).cfg = s.cfg := rfl
@[simp] theorem setRealBuf_host (s : State) (r : Fin 4) (xs : List F32) : (s.setRealBuf r xs).host = s.host := rfl
@[simp] theorem setRealBuf_hostGot (s : State) (r : Fin 4) (xs : List F32) : (s.setRealBuf r xs).hostGot = s.hostGot := rfl

/-! ### `setCplxBuf` -/

@[simp] theorem setCplxBuf_P (s : State) (b : Fin 4) (xs : List Cplx) : (s.setCplxBuf b xs).P = s.P := rfl
@[simp] theorem setCplxBuf_pc (s : State) (b : Fin 4) (xs : List Cplx) : (s.setCplxBuf b xs).pc = s.pc := rfl
@[simp] theorem setCplxBuf_Z (s : State) (b : Fin 4) (xs : List Cplx) : (s.setCplxBuf b xs).Z = s.Z := rfl
@[simp] theorem setCplxBuf_IE (s : State) (b : Fin 4) (xs : List Cplx) : (s.setCplxBuf b xs).IE = s.IE := rfl
@[simp] theorem setCplxBuf_STATE (s : State) (b : Fin 4) (xs : List Cplx) : (s.setCplxBuf b xs).STATE = s.STATE := rfl
@[simp] theorem setCplxBuf_FCAUSE (s : State) (b : Fin 4) (xs : List Cplx) : (s.setCplxBuf b xs).FCAUSE = s.FCAUSE := rfl
@[simp] theorem setCplxBuf_FPC (s : State) (b : Fin 4) (xs : List Cplx) : (s.setCplxBuf b xs).FPC = s.FPC := rfl
@[simp] theorem setCplxBuf_FINFO (s : State) (b : Fin 4) (xs : List Cplx) : (s.setCplxBuf b xs).FINFO = s.FINFO := rfl
@[simp] theorem setCplxBuf_RB (s : State) (b : Fin 4) (xs : List Cplx) : (s.setCplxBuf b xs).RB = s.RB := rfl
@[simp] theorem setCplxBuf_CB (s : State) (b : Fin 4) (xs : List Cplx) : (s.setCplxBuf b xs).CB = s.CB.set b { len := xs.length, mem := s.CB[b].mem.fresh (cplxWords xs) } := rfl
@[simp] theorem setCplxBuf_CM (s : State) (b : Fin 4) (xs : List Cplx) : (s.setCplxBuf b xs).CM = s.CM := rfl
@[simp] theorem setCplxBuf_WORD (s : State) (b : Fin 4) (xs : List Cplx) : (s.setCplxBuf b xs).WORD = s.WORD := rfl
@[simp] theorem setCplxBuf_WT (s : State) (b : Fin 4) (xs : List Cplx) : (s.setCplxBuf b xs).WT = s.WT := rfl
@[simp] theorem setCplxBuf_cfg (s : State) (b : Fin 4) (xs : List Cplx) : (s.setCplxBuf b xs).cfg = s.cfg := rfl
@[simp] theorem setCplxBuf_host (s : State) (b : Fin 4) (xs : List Cplx) : (s.setCplxBuf b xs).host = s.host := rfl
@[simp] theorem setCplxBuf_hostGot (s : State) (b : Fin 4) (xs : List Cplx) : (s.setCplxBuf b xs).hostGot = s.hostGot := rfl

/-! ### `updRealBuf` -/

@[simp] theorem updRealBuf_P (s : State) (r : Fin 4) (xs : List F32) : (s.updRealBuf r xs).P = s.P := rfl
@[simp] theorem updRealBuf_pc (s : State) (r : Fin 4) (xs : List F32) : (s.updRealBuf r xs).pc = s.pc := rfl
@[simp] theorem updRealBuf_Z (s : State) (r : Fin 4) (xs : List F32) : (s.updRealBuf r xs).Z = s.Z := rfl
@[simp] theorem updRealBuf_IE (s : State) (r : Fin 4) (xs : List F32) : (s.updRealBuf r xs).IE = s.IE := rfl
@[simp] theorem updRealBuf_STATE (s : State) (r : Fin 4) (xs : List F32) : (s.updRealBuf r xs).STATE = s.STATE := rfl
@[simp] theorem updRealBuf_FCAUSE (s : State) (r : Fin 4) (xs : List F32) : (s.updRealBuf r xs).FCAUSE = s.FCAUSE := rfl
@[simp] theorem updRealBuf_FPC (s : State) (r : Fin 4) (xs : List F32) : (s.updRealBuf r xs).FPC = s.FPC := rfl
@[simp] theorem updRealBuf_FINFO (s : State) (r : Fin 4) (xs : List F32) : (s.updRealBuf r xs).FINFO = s.FINFO := rfl
@[simp] theorem updRealBuf_RB (s : State) (r : Fin 4) (xs : List F32) : (s.updRealBuf r xs).RB = s.RB.set r { s.RB[r] with mem := s.RB[r].mem.overwrite xs } := rfl
@[simp] theorem updRealBuf_CB (s : State) (r : Fin 4) (xs : List F32) : (s.updRealBuf r xs).CB = s.CB := rfl
@[simp] theorem updRealBuf_CM (s : State) (r : Fin 4) (xs : List F32) : (s.updRealBuf r xs).CM = s.CM := rfl
@[simp] theorem updRealBuf_WORD (s : State) (r : Fin 4) (xs : List F32) : (s.updRealBuf r xs).WORD = s.WORD := rfl
@[simp] theorem updRealBuf_WT (s : State) (r : Fin 4) (xs : List F32) : (s.updRealBuf r xs).WT = s.WT := rfl
@[simp] theorem updRealBuf_cfg (s : State) (r : Fin 4) (xs : List F32) : (s.updRealBuf r xs).cfg = s.cfg := rfl
@[simp] theorem updRealBuf_host (s : State) (r : Fin 4) (xs : List F32) : (s.updRealBuf r xs).host = s.host := rfl
@[simp] theorem updRealBuf_hostGot (s : State) (r : Fin 4) (xs : List F32) : (s.updRealBuf r xs).hostGot = s.hostGot := rfl

/-! ### `updCplxBuf` -/

@[simp] theorem updCplxBuf_P (s : State) (b : Fin 4) (xs : List Cplx) : (s.updCplxBuf b xs).P = s.P := rfl
@[simp] theorem updCplxBuf_pc (s : State) (b : Fin 4) (xs : List Cplx) : (s.updCplxBuf b xs).pc = s.pc := rfl
@[simp] theorem updCplxBuf_Z (s : State) (b : Fin 4) (xs : List Cplx) : (s.updCplxBuf b xs).Z = s.Z := rfl
@[simp] theorem updCplxBuf_IE (s : State) (b : Fin 4) (xs : List Cplx) : (s.updCplxBuf b xs).IE = s.IE := rfl
@[simp] theorem updCplxBuf_STATE (s : State) (b : Fin 4) (xs : List Cplx) : (s.updCplxBuf b xs).STATE = s.STATE := rfl
@[simp] theorem updCplxBuf_FCAUSE (s : State) (b : Fin 4) (xs : List Cplx) : (s.updCplxBuf b xs).FCAUSE = s.FCAUSE := rfl
@[simp] theorem updCplxBuf_FPC (s : State) (b : Fin 4) (xs : List Cplx) : (s.updCplxBuf b xs).FPC = s.FPC := rfl
@[simp] theorem updCplxBuf_FINFO (s : State) (b : Fin 4) (xs : List Cplx) : (s.updCplxBuf b xs).FINFO = s.FINFO := rfl
@[simp] theorem updCplxBuf_RB (s : State) (b : Fin 4) (xs : List Cplx) : (s.updCplxBuf b xs).RB = s.RB := rfl
@[simp] theorem updCplxBuf_CB (s : State) (b : Fin 4) (xs : List Cplx) : (s.updCplxBuf b xs).CB = s.CB.set b { s.CB[b] with mem := s.CB[b].mem.overwrite (cplxWords xs) } := rfl
@[simp] theorem updCplxBuf_CM (s : State) (b : Fin 4) (xs : List Cplx) : (s.updCplxBuf b xs).CM = s.CM := rfl
@[simp] theorem updCplxBuf_WORD (s : State) (b : Fin 4) (xs : List Cplx) : (s.updCplxBuf b xs).WORD = s.WORD := rfl
@[simp] theorem updCplxBuf_WT (s : State) (b : Fin 4) (xs : List Cplx) : (s.updCplxBuf b xs).WT = s.WT := rfl
@[simp] theorem updCplxBuf_cfg (s : State) (b : Fin 4) (xs : List Cplx) : (s.updCplxBuf b xs).cfg = s.cfg := rfl
@[simp] theorem updCplxBuf_host (s : State) (b : Fin 4) (xs : List Cplx) : (s.updCplxBuf b xs).host = s.host := rfl
@[simp] theorem updCplxBuf_hostGot (s : State) (b : Fin 4) (xs : List Cplx) : (s.updCplxBuf b xs).hostGot = s.hostGot := rfl

/-! ### `writeReal` -/

@[simp] theorem writeReal_P (s : State) (r : Fin 4) (i : Nat) (v : F32) : (s.writeReal r i v).P = s.P := rfl
@[simp] theorem writeReal_pc (s : State) (r : Fin 4) (i : Nat) (v : F32) : (s.writeReal r i v).pc = s.pc := rfl
@[simp] theorem writeReal_Z (s : State) (r : Fin 4) (i : Nat) (v : F32) : (s.writeReal r i v).Z = s.Z := rfl
@[simp] theorem writeReal_IE (s : State) (r : Fin 4) (i : Nat) (v : F32) : (s.writeReal r i v).IE = s.IE := rfl
@[simp] theorem writeReal_STATE (s : State) (r : Fin 4) (i : Nat) (v : F32) : (s.writeReal r i v).STATE = s.STATE := rfl
@[simp] theorem writeReal_FCAUSE (s : State) (r : Fin 4) (i : Nat) (v : F32) : (s.writeReal r i v).FCAUSE = s.FCAUSE := rfl
@[simp] theorem writeReal_FPC (s : State) (r : Fin 4) (i : Nat) (v : F32) : (s.writeReal r i v).FPC = s.FPC := rfl
@[simp] theorem writeReal_FINFO (s : State) (r : Fin 4) (i : Nat) (v : F32) : (s.writeReal r i v).FINFO = s.FINFO := rfl
@[simp] theorem writeReal_RB (s : State) (r : Fin 4) (i : Nat) (v : F32) : (s.writeReal r i v).RB = s.RB.set r { s.RB[r] with mem := s.RB[r].mem.write i v } := rfl
@[simp] theorem writeReal_CB (s : State) (r : Fin 4) (i : Nat) (v : F32) : (s.writeReal r i v).CB = s.CB := rfl
@[simp] theorem writeReal_CM (s : State) (r : Fin 4) (i : Nat) (v : F32) : (s.writeReal r i v).CM = s.CM := rfl
@[simp] theorem writeReal_WORD (s : State) (r : Fin 4) (i : Nat) (v : F32) : (s.writeReal r i v).WORD = s.WORD := rfl
@[simp] theorem writeReal_WT (s : State) (r : Fin 4) (i : Nat) (v : F32) : (s.writeReal r i v).WT = s.WT := rfl
@[simp] theorem writeReal_cfg (s : State) (r : Fin 4) (i : Nat) (v : F32) : (s.writeReal r i v).cfg = s.cfg := rfl
@[simp] theorem writeReal_host (s : State) (r : Fin 4) (i : Nat) (v : F32) : (s.writeReal r i v).host = s.host := rfl
@[simp] theorem writeReal_hostGot (s : State) (r : Fin 4) (i : Nat) (v : F32) : (s.writeReal r i v).hostGot = s.hostGot := rfl

/-! ### `writeCplxWord` -/

@[simp] theorem writeCplxWord_P (s : State) (b : Fin 4) (i : Nat) (v : Word) : (s.writeCplxWord b i v).P = s.P := rfl
@[simp] theorem writeCplxWord_pc (s : State) (b : Fin 4) (i : Nat) (v : Word) : (s.writeCplxWord b i v).pc = s.pc := rfl
@[simp] theorem writeCplxWord_Z (s : State) (b : Fin 4) (i : Nat) (v : Word) : (s.writeCplxWord b i v).Z = s.Z := rfl
@[simp] theorem writeCplxWord_IE (s : State) (b : Fin 4) (i : Nat) (v : Word) : (s.writeCplxWord b i v).IE = s.IE := rfl
@[simp] theorem writeCplxWord_STATE (s : State) (b : Fin 4) (i : Nat) (v : Word) : (s.writeCplxWord b i v).STATE = s.STATE := rfl
@[simp] theorem writeCplxWord_FCAUSE (s : State) (b : Fin 4) (i : Nat) (v : Word) : (s.writeCplxWord b i v).FCAUSE = s.FCAUSE := rfl
@[simp] theorem writeCplxWord_FPC (s : State) (b : Fin 4) (i : Nat) (v : Word) : (s.writeCplxWord b i v).FPC = s.FPC := rfl
@[simp] theorem writeCplxWord_FINFO (s : State) (b : Fin 4) (i : Nat) (v : Word) : (s.writeCplxWord b i v).FINFO = s.FINFO := rfl
@[simp] theorem writeCplxWord_RB (s : State) (b : Fin 4) (i : Nat) (v : Word) : (s.writeCplxWord b i v).RB = s.RB := rfl
@[simp] theorem writeCplxWord_CB (s : State) (b : Fin 4) (i : Nat) (v : Word) : (s.writeCplxWord b i v).CB = s.CB.set b { s.CB[b] with mem := s.CB[b].mem.write i v } := rfl
@[simp] theorem writeCplxWord_CM (s : State) (b : Fin 4) (i : Nat) (v : Word) : (s.writeCplxWord b i v).CM = s.CM := rfl
@[simp] theorem writeCplxWord_WORD (s : State) (b : Fin 4) (i : Nat) (v : Word) : (s.writeCplxWord b i v).WORD = s.WORD := rfl
@[simp] theorem writeCplxWord_WT (s : State) (b : Fin 4) (i : Nat) (v : Word) : (s.writeCplxWord b i v).WT = s.WT := rfl
@[simp] theorem writeCplxWord_cfg (s : State) (b : Fin 4) (i : Nat) (v : Word) : (s.writeCplxWord b i v).cfg = s.cfg := rfl
@[simp] theorem writeCplxWord_host (s : State) (b : Fin 4) (i : Nat) (v : Word) : (s.writeCplxWord b i v).host = s.host := rfl
@[simp] theorem writeCplxWord_hostGot (s : State) (b : Fin 4) (i : Nat) (v : Word) : (s.writeCplxWord b i v).hostGot = s.hostGot := rfl

/-! ### `writeCplx` -/

@[simp] theorem writeCplx_P (s : State) (b : Fin 4) (i : Nat) (z : Cplx) : (s.writeCplx b i z).P = s.P := rfl
@[simp] theorem writeCplx_pc (s : State) (b : Fin 4) (i : Nat) (z : Cplx) : (s.writeCplx b i z).pc = s.pc := rfl
@[simp] theorem writeCplx_Z (s : State) (b : Fin 4) (i : Nat) (z : Cplx) : (s.writeCplx b i z).Z = s.Z := rfl
@[simp] theorem writeCplx_IE (s : State) (b : Fin 4) (i : Nat) (z : Cplx) : (s.writeCplx b i z).IE = s.IE := rfl
@[simp] theorem writeCplx_STATE (s : State) (b : Fin 4) (i : Nat) (z : Cplx) : (s.writeCplx b i z).STATE = s.STATE := rfl
@[simp] theorem writeCplx_FCAUSE (s : State) (b : Fin 4) (i : Nat) (z : Cplx) : (s.writeCplx b i z).FCAUSE = s.FCAUSE := rfl
@[simp] theorem writeCplx_FPC (s : State) (b : Fin 4) (i : Nat) (z : Cplx) : (s.writeCplx b i z).FPC = s.FPC := rfl
@[simp] theorem writeCplx_FINFO (s : State) (b : Fin 4) (i : Nat) (z : Cplx) : (s.writeCplx b i z).FINFO = s.FINFO := rfl
@[simp] theorem writeCplx_RB (s : State) (b : Fin 4) (i : Nat) (z : Cplx) : (s.writeCplx b i z).RB = s.RB := rfl
@[simp] theorem writeCplx_CM (s : State) (b : Fin 4) (i : Nat) (z : Cplx) : (s.writeCplx b i z).CM = s.CM := rfl
@[simp] theorem writeCplx_WORD (s : State) (b : Fin 4) (i : Nat) (z : Cplx) : (s.writeCplx b i z).WORD = s.WORD := rfl
@[simp] theorem writeCplx_WT (s : State) (b : Fin 4) (i : Nat) (z : Cplx) : (s.writeCplx b i z).WT = s.WT := rfl
@[simp] theorem writeCplx_cfg (s : State) (b : Fin 4) (i : Nat) (z : Cplx) : (s.writeCplx b i z).cfg = s.cfg := rfl
@[simp] theorem writeCplx_host (s : State) (b : Fin 4) (i : Nat) (z : Cplx) : (s.writeCplx b i z).host = s.host := rfl
@[simp] theorem writeCplx_hostGot (s : State) (b : Fin 4) (i : Nat) (z : Cplx) : (s.writeCplx b i z).hostGot = s.hostGot := rfl

/-! ### `advance` -/

@[simp] theorem advance_P (s : State) : (s.advance).P = s.P := rfl
@[simp] theorem advance_pc (s : State) : (s.advance).pc = s.pc + 1 := rfl
@[simp] theorem advance_Z (s : State) : (s.advance).Z = s.Z := rfl
@[simp] theorem advance_IE (s : State) : (s.advance).IE = s.IE := rfl
@[simp] theorem advance_STATE (s : State) : (s.advance).STATE = s.STATE := rfl
@[simp] theorem advance_FCAUSE (s : State) : (s.advance).FCAUSE = s.FCAUSE := rfl
@[simp] theorem advance_FPC (s : State) : (s.advance).FPC = s.FPC := rfl
@[simp] theorem advance_FINFO (s : State) : (s.advance).FINFO = s.FINFO := rfl
@[simp] theorem advance_RB (s : State) : (s.advance).RB = s.RB := rfl
@[simp] theorem advance_CB (s : State) : (s.advance).CB = s.CB := rfl
@[simp] theorem advance_CM (s : State) : (s.advance).CM = s.CM := rfl
@[simp] theorem advance_WORD (s : State) : (s.advance).WORD = s.WORD := rfl
@[simp] theorem advance_WT (s : State) : (s.advance).WT = s.WT := rfl
@[simp] theorem advance_cfg (s : State) : (s.advance).cfg = s.cfg := rfl
@[simp] theorem advance_host (s : State) : (s.advance).host = s.host := rfl
@[simp] theorem advance_hostGot (s : State) : (s.advance).hostGot = s.hostGot := rfl

/-! ### `takeFault` -/

@[simp] theorem takeFault_P (s : State) (c : Cause) (v : Nat) : (s.takeFault c v).P = s.P := rfl
@[simp] theorem takeFault_pc (s : State) (c : Cause) (v : Nat) : (s.takeFault c v).pc = s.pc := rfl
@[simp] theorem takeFault_Z (s : State) (c : Cause) (v : Nat) : (s.takeFault c v).Z = s.Z := rfl
@[simp] theorem takeFault_IE (s : State) (c : Cause) (v : Nat) : (s.takeFault c v).IE = s.IE := rfl
@[simp] theorem takeFault_STATE (s : State) (c : Cause) (v : Nat) : (s.takeFault c v).STATE = .fault := rfl
@[simp] theorem takeFault_FCAUSE (s : State) (c : Cause) (v : Nat) : (s.takeFault c v).FCAUSE = some c := rfl
@[simp] theorem takeFault_FPC (s : State) (c : Cause) (v : Nat) : (s.takeFault c v).FPC = s.pc := rfl
@[simp] theorem takeFault_FINFO (s : State) (c : Cause) (v : Nat) : (s.takeFault c v).FINFO = BitVec.ofNat 32 (min v 0xFFFFFFFF) := rfl
@[simp] theorem takeFault_RB (s : State) (c : Cause) (v : Nat) : (s.takeFault c v).RB = s.RB := rfl
@[simp] theorem takeFault_CB (s : State) (c : Cause) (v : Nat) : (s.takeFault c v).CB = s.CB := rfl
@[simp] theorem takeFault_CM (s : State) (c : Cause) (v : Nat) : (s.takeFault c v).CM = s.CM := rfl
@[simp] theorem takeFault_WORD (s : State) (c : Cause) (v : Nat) : (s.takeFault c v).WORD = s.WORD := rfl
@[simp] theorem takeFault_WT (s : State) (c : Cause) (v : Nat) : (s.takeFault c v).WT = s.WT := rfl
@[simp] theorem takeFault_cfg (s : State) (c : Cause) (v : Nat) : (s.takeFault c v).cfg = s.cfg := rfl
@[simp] theorem takeFault_host (s : State) (c : Cause) (v : Nat) : (s.takeFault c v).host = s.host := rfl
@[simp] theorem takeFault_hostGot (s : State) (c : Cause) (v : Nat) : (s.takeFault c v).hostGot = s.hostGot := rfl

/-! ### `clearFault` -/

@[simp] theorem clearFault_P (s : State) : (s.clearFault).P = s.P := rfl
@[simp] theorem clearFault_pc (s : State) : (s.clearFault).pc = s.pc := rfl
@[simp] theorem clearFault_Z (s : State) : (s.clearFault).Z = s.Z := rfl
@[simp] theorem clearFault_IE (s : State) : (s.clearFault).IE = s.IE := rfl
@[simp] theorem clearFault_STATE (s : State) : (s.clearFault).STATE = .idle := rfl
@[simp] theorem clearFault_FCAUSE (s : State) : (s.clearFault).FCAUSE = none := rfl
@[simp] theorem clearFault_FPC (s : State) : (s.clearFault).FPC = 0 := rfl
@[simp] theorem clearFault_FINFO (s : State) : (s.clearFault).FINFO = 0#32 := rfl
@[simp] theorem clearFault_RB (s : State) : (s.clearFault).RB = s.RB := rfl
@[simp] theorem clearFault_CB (s : State) : (s.clearFault).CB = s.CB := rfl
@[simp] theorem clearFault_CM (s : State) : (s.clearFault).CM = s.CM := rfl
@[simp] theorem clearFault_WORD (s : State) : (s.clearFault).WORD = s.WORD := rfl
@[simp] theorem clearFault_WT (s : State) : (s.clearFault).WT = s.WT := rfl
@[simp] theorem clearFault_cfg (s : State) : (s.clearFault).cfg = s.cfg := rfl
@[simp] theorem clearFault_host (s : State) : (s.clearFault).host = s.host := rfl
@[simp] theorem clearFault_hostGot (s : State) : (s.clearFault).hostGot = s.hostGot := rfl

/-! ## Accessors -/

@[simp] theorem getP_setP_same (s : State) (i : Fin 16) (v : Word) : (s.setP i v).getP i = v := by simp [getP]

theorem getP_setP_ne (s : State) {i j : Fin 16} (v : Word) (h : j ≠ i) : (s.setP i v).getP j = s.getP j := by
  have : (i : Nat) ≠ j := fun e => h (Fin.ext e.symm)
  simp [getP, this]

@[simp] theorem getZ_setZ_same (s : State) (i : Fin 8) (v : Cplx) : (s.setZ i v).getZ i = v := by simp [getZ]

theorem getZ_setZ_ne (s : State) {i j : Fin 8} (v : Cplx) (h : j ≠ i) : (s.setZ i v).getZ j = s.getZ j := by
  have : (i : Nat) ≠ j := fun e => h (Fin.ext e.symm)
  simp [getZ, this]

@[simp] theorem rlen_setRealBuf_same (s : State) (r : Fin 4) (xs : List F32) : (s.setRealBuf r xs).rlen r = xs.length := by
  simp [rlen]

theorem rlen_setRealBuf_ne (s : State) {r q : Fin 4} (xs : List F32) (h : q ≠ r) :
    (s.setRealBuf r xs).rlen q = s.rlen q := by
  have : (r : Nat) ≠ q := fun e => h (Fin.ext e.symm)
  simp [rlen, this]

@[simp] theorem clen_setCplxBuf_same (s : State) (b : Fin 4) (xs : List Cplx) : (s.setCplxBuf b xs).clen b = xs.length := by
  simp [clen]

theorem clen_setCplxBuf_ne (s : State) {b q : Fin 4} (xs : List Cplx) (h : q ≠ b) :
    (s.setCplxBuf b xs).clen q = s.clen q := by
  have : (b : Nat) ≠ q := fun e => h (Fin.ext e.symm)
  simp [clen, this]

@[simp] theorem rlen_updRealBuf (s : State) (r q : Fin 4) (xs : List F32) : (s.updRealBuf r xs).rlen q = s.rlen q := by
  by_cases h : (r : Nat) = q
  · obtain rfl := Fin.ext h
    simp [rlen]
  · simp [rlen, h]

@[simp] theorem clen_updCplxBuf (s : State) (b q : Fin 4) (xs : List Cplx) : (s.updCplxBuf b xs).clen q = s.clen q := by
  by_cases h : (b : Nat) = q
  · obtain rfl := Fin.ext h
    simp [clen]
  · simp [clen, h]

/-- A lookup of a Walsh cell writes the table alone. -/
theorem touch_frame (s : State) (i j : Nat) : ∃ wt, s.touch i j = { s with WT := wt } := by
  unfold touch
  split
  · exact ⟨s.WT, rfl⟩
  · exact ⟨_, rfl⟩

end Sys2Proof.Machine.State
end

