-- ==== Sys2Proof/Laws/Banks.lean ====
section
/-! SUPPORT. What a bank holds after each whole-buffer update, as samples. -/

namespace Sys2Proof.Machine

open Sys2Proof

@[simp] theorem cplxWords_length (xs : List Cplx) : (cplxWords xs).length = 2 * xs.length := by
  induction xs with
  | nil => rfl
  | cons x xs ih =>
    simp only [cplxWords, List.flatMap_cons, List.length_append, List.length_cons, List.length_nil] at ih ⊢
    omega

theorem cplxWords_re (xs : List Cplx) (i : Nat) : (cplxWords xs)[2 * i]? = xs[i]?.map Cplx.re := by
  induction xs generalizing i with
  | nil => simp [cplxWords]
  | cons x xs ih =>
    cases i with
    | zero => rfl
    | succ i => exact ih i

theorem cplxWords_im (xs : List Cplx) (i : Nat) : (cplxWords xs)[2 * i + 1]? = xs[i]?.map Cplx.im := by
  induction xs generalizing i with
  | nil => simp [cplxWords]
  | cons x xs ih =>
    cases i with
    | zero => rfl
    | succ i => exact ih i

/-- Reading back `n` samples of a bank whose words are those of `xs`. -/
theorem cplx_samples (g : Config.Region) (m : Mem) (xs : List Cplx)
    (h : ∀ i (hi : i < (cplxWords xs).length), m.read g i = (cplxWords xs)[i]) :
    (List.range xs.length).map (fun i => (⟨m.read g (2 * i), m.read g (2 * i + 1)⟩ : Cplx)) = xs := by
  apply List.ext_getElem
  · simp
  · intro i h1 h2
    have a : 2 * i < (cplxWords xs).length := by simp; omega
    have b : 2 * i + 1 < (cplxWords xs).length := by simp; omega
    have ea := cplxWords_re xs i
    have eb := cplxWords_im xs i
    rw [List.getElem?_eq_getElem a, List.getElem?_eq_getElem h2] at ea
    rw [List.getElem?_eq_getElem b, List.getElem?_eq_getElem h2] at eb
    simp only [Option.map_some, Option.some.injEq] at ea eb
    simp [h _ a, h _ b, ea, eb]

namespace State

@[simp] theorem realBuf_length (s : State) (r : Fin 4) : (s.realBuf r).length = s.rlen r := by simp [realBuf]

@[simp] theorem cplxBuf_length (s : State) (b : Fin 4) : (s.cplxBuf b).length = s.clen b := by simp [cplxBuf]

@[simp] theorem realBuf_setRealBuf_same (s : State) (r : Fin 4) (xs : List F32) : (s.setRealBuf r xs).realBuf r = xs := by
  apply List.ext_getElem
  · simp
  · intro i h1 h2
    simp [realBuf, readReal, Mem.read_fresh _ _ _ h2]

theorem realBuf_setRealBuf_ne (s : State) {r q : Fin 4} (xs : List F32) (h : q ≠ r) :
    (s.setRealBuf r xs).realBuf q = s.realBuf q := by
  have h' : (r : Nat) ≠ q := fun e => h (Fin.ext e.symm)
  simp [realBuf, rlen, readReal, h']

@[simp] theorem cplxBuf_setCplxBuf_same (s : State) (b : Fin 4) (xs : List Cplx) :
    (s.setCplxBuf b xs).cplxBuf b = xs := by
  have := cplx_samples (.cplx b) (s.CB[b].mem.fresh (cplxWords xs)) xs fun i hi => Mem.read_fresh _ _ _ hi
  have e : (s.setCplxBuf b xs).readCplx b = fun i =>
      ⟨(s.CB[b].mem.fresh (cplxWords xs)).read (.cplx b) (2 * i),
       (s.CB[b].mem.fresh (cplxWords xs)).read (.cplx b) (2 * i + 1)⟩ := by
    funext i
    simp [readCplx, readCplxWord]
  rw [cplxBuf, clen_setCplxBuf_same, e]
  exact this

theorem cplxBuf_setCplxBuf_ne (s : State) {b q : Fin 4} (xs : List Cplx) (h : q ≠ b) :
    (s.setCplxBuf b xs).cplxBuf q = s.cplxBuf q := by
  have h' : (b : Nat) ≠ q := fun e => h (Fin.ext e.symm)
  simp [cplxBuf, clen, readCplx, readCplxWord, h']

theorem realBuf_updRealBuf_same (s : State) (r : Fin 4) (xs : List F32) (h : xs.length = s.rlen r) :
    (s.updRealBuf r xs).realBuf r = xs := by
  apply List.ext_getElem
  · simp [h]
  · intro i h1 h2
    simp [realBuf, readReal, Mem.read_overwrite _ _ _ h2]

theorem cplxBuf_updCplxBuf_same (s : State) (b : Fin 4) (xs : List Cplx) (h : xs.length = s.clen b) :
    (s.updCplxBuf b xs).cplxBuf b = xs := by
  have := cplx_samples (.cplx b) (s.CB[b].mem.overwrite (cplxWords xs)) xs fun i hi => Mem.read_overwrite _ _ _ hi
  have e : (s.updCplxBuf b xs).readCplx b = fun i =>
      ⟨(s.CB[b].mem.overwrite (cplxWords xs)).read (.cplx b) (2 * i),
       (s.CB[b].mem.overwrite (cplxWords xs)).read (.cplx b) (2 * i + 1)⟩ := by
    funext i
    simp [readCplx, readCplxWord]
  rw [cplxBuf, clen_updCplxBuf, ← h, e]
  exact this

theorem cplxBuf_updCplxBuf_ne (s : State) {b q : Fin 4} (xs : List Cplx) (h : q ≠ b) :
    (s.updCplxBuf b xs).cplxBuf q = s.cplxBuf q := by
  have h' : (b : Nat) ≠ q := fun e => h (Fin.ext e.symm)
  simp [cplxBuf, clen, readCplx, readCplxWord, h']

@[simp] theorem realBuf_setCplxBuf (s : State) (b r : Fin 4) (xs : List Cplx) :
    (s.setCplxBuf b xs).realBuf r = s.realBuf r := rfl

@[simp] theorem realBuf_updCplxBuf (s : State) (b r : Fin 4) (xs : List Cplx) :
    (s.updCplxBuf b xs).realBuf r = s.realBuf r := rfl

@[simp] theorem cplxBuf_setRealBuf (s : State) (r b : Fin 4) (xs : List F32) :
    (s.setRealBuf r xs).cplxBuf b = s.cplxBuf b := rfl

@[simp] theorem cplxBuf_updRealBuf (s : State) (r b : Fin 4) (xs : List F32) :
    (s.updRealBuf r xs).cplxBuf b = s.cplxBuf b := rfl

@[simp] theorem cplxBuf_advance (s : State) (b : Fin 4) : s.advance.cplxBuf b = s.cplxBuf b := rfl

@[simp] theorem realBuf_advance (s : State) (r : Fin 4) : s.advance.realBuf r = s.realBuf r := rfl

/-- A whole buffer written over one of the same length. -/
theorem updCplxBuf_updCplxBuf (s : State) (b : Fin 4) (xs ys : List Cplx) (h : xs.length = ys.length) :
    (s.updCplxBuf b xs).updCplxBuf b ys = s.updCplxBuf b ys := by
  have e : (cplxWords xs).length = (cplxWords ys).length := by simp [h]
  simp [updCplxBuf, Mem.overwrite_overwrite _ _ _ e]

theorem setCplxBuf_updCplxBuf (s : State) (b : Fin 4) (xs ys : List Cplx) (h : xs.length = ys.length) :
    (s.setCplxBuf b xs).updCplxBuf b ys = s.setCplxBuf b ys := by
  have e : (cplxWords xs).length = (cplxWords ys).length := by simp [h]
  simp [setCplxBuf, updCplxBuf, Mem.fresh_overwrite _ _ _ e, h]

/-- Buffers set in two different banks, in either order. -/
theorem setCplxBuf_comm (s : State) {b c : Fin 4} (xs ys : List Cplx) (h : b ≠ c) :
    (s.setCplxBuf b xs).setCplxBuf c ys = (s.setCplxBuf c ys).setCplxBuf b xs := by
  have h' : (b : Nat) ≠ c := fun e => h (Fin.ext e)
  simp [setCplxBuf, h', Ne.symm h', Vector.set_comm _ _ h']

end State

end Sys2Proof.Machine
end

