-- ==== Sys2Proof/Laws/Outcome.lean ====
section
/-! SUPPORT. How a command ends, said once for the operations every command ends with; and the lengths of the signal
functions, so that no proof unfolds one to count its samples. -/

namespace Sys2Proof.Machine

open Sys2Proof

/-! ## Checks and endings -/

@[simp] theorem require_true (c : Cause) (v : Nat) : require true c v = .ok () := rfl

@[simp] theorem require_false (c : Cause) (v : Nat) : require false c v = .error (c, v) := rfl

theorem require_eq_ok {ok : Bool} {c : Cause} {v : Nat} {u : Unit} : require ok c v = .ok u ↔ ok = true := by
  cases ok <;> simp

theorem require_eq_error {ok : Bool} {c : Cause} {v : Nat} {r : Raise} :
    require ok c v = .error r ↔ ok = false ∧ r = (c, v) := by
  cases ok <;> simp [eq_comm]

/-- Everything a checked sequence can be: the first check raised, or it passed and the rest follows. -/
theorem require_bind {α : Type} (ok : Bool) (c : Cause) (v : Nat) (k : Unit → Except Raise α) :
    (require ok c v >>= k) = if ok then k () else .error (c, v) := by
  cases ok <;> rfl

/-- A sequence ended well exactly when its first part did and the rest did from there. -/
theorem bind_eq_ok {α β : Type} {m : Except Raise α} {k : α → Except Raise β} {b : β} :
    (m >>= k) = .ok b ↔ ∃ a, m = .ok a ∧ k a = .ok b := by
  cases m with
  | ok a => exact ⟨fun h => ⟨a, rfl, h⟩, fun ⟨_, ha, h⟩ => by cases ha; exact h⟩
  | error e => exact ⟨fun h => (nomatch h), fun ⟨_, ha, _⟩ => (nomatch ha)⟩

theorem pure_eq_ok {α : Type} {a b : α} : (pure a : Except Raise α) = .ok b ↔ a = b :=
  ⟨fun h => by cases h; rfl, fun h => by rw [h]; rfl⟩

@[simp] theorem finish_ok (s t : State) : finish s (.ok t) = .next t.advance := rfl

@[simp] theorem finish_error (s : State) (c : Cause) (v : Nat) : finish s (.error (c, v)) = .next (s.takeFault c v) := rfl

/-- What `finish` can answer. -/
theorem finish_cases {s t : State} {r : Except Raise State} (h : finish s r = .next t) :
    (∃ u, r = .ok u ∧ t = u.advance) ∨ (∃ c v, r = .error (c, v) ∧ t = s.takeFault c v) := by
  cases r with
  | ok u =>
    simp only [finish_ok, Host.Outcome.next.injEq] at h
    exact .inl ⟨u, rfl, h.symm⟩
  | error e =>
    obtain ⟨c, v⟩ := e
    simp only [finish_error, Host.Outcome.next.injEq] at h
    exact .inr ⟨c, v, rfl, h.symm⟩

/-- `finish` always answers a next state. -/
theorem finish_next (s : State) (r : Except Raise State) : ∃ t, finish s r = .next t := by
  cases r with
  | ok u => exact ⟨_, rfl⟩
  | error e => exact ⟨_, rfl⟩

theorem elementIndex_eq_ok {s : State} {pi : Fin 16} {len i : Nat} :
    elementIndex s pi len = .ok i ↔ s.idx pi = i ∧ s.idx pi < len := by
  unfold elementIndex
  simp only [bind_eq_ok, pure_eq_ok, require_eq_ok, decide_eq_true_eq]
  exact ⟨fun ⟨_, h, e⟩ => ⟨e, h⟩, fun ⟨e, h⟩ => ⟨(), h, e⟩⟩

theorem requireLift_eq_ok {s : State} {size l : Nat} {u : Unit} :
    requireLift s size l = .ok u ↔ ispow2 size = true ∧ size ≤ s.cap ∧ l ≤ size := by
  unfold requireLift
  rw [require_bind, require_bind]
  split
  · split
    · rw [require_eq_ok]
      simp_all
    · simp_all
  · simp_all

theorem requireDistinct_eq_ok {a b : Fin 4} {u : Unit} : requireDistinct a b = .ok u ↔ a ≠ b := by
  unfold requireDistinct
  rw [require_eq_ok]
  simp

/-! ## Lengths -/

@[simp] theorem bitrev_length (x : List Cplx) : (bitrev x).length = x.length := by simp [bitrev]

@[simp] theorem stage_length (gen : Config.TwiddleGen) (dir : Dir) (m : Nat) (x : List Cplx) :
    (stage gen dir m x).length = x.length := by simp [stage]

@[simp] theorem stages_length (gen : Config.TwiddleGen) (dir : Dir) (x : List Cplx) :
    (stages gen dir x).length = x.length := by
  unfold stages
  generalize List.range (Nat.log2 x.length) = ks
  induction ks generalizing x with
  | nil => rfl
  | cons k ks ih => rw [List.foldl_cons, ih, stage_length]

@[simp] theorem fft_length (gen : Config.TwiddleGen) (x : List Cplx) : (fft gen x).length = x.length := by simp [fft]

@[simp] theorem ifft_length (gen : Config.TwiddleGen) (x : List Cplx) : (ifft gen x).length = x.length := by
  simp [ifft, scale]

@[simp] theorem lift_length (x : List F32) (size : Nat) : (lift x size).length = max x.length size := by
  simp only [lift, List.length_append, List.length_map, List.length_replicate]
  omega

@[simp] theorem rfft_length (gen : Config.TwiddleGen) (x : List F32) (size : Nat) :
    (rfft gen x size).length = max x.length size := by simp [rfft]

@[simp] theorem rfftg_length (gen : Config.TwiddleGen) (x : List F32) (b g : Nat) : (rfftg gen x b g).length = b * g := by
  simp [rfftg]

@[simp] theorem groupParts_length (gen : Config.TwiddleGen) (x : List F32) (b g : Nat) :
    (groupParts gen x b g).flatten.length = g * b := by
  have h : (List.length ∘ part gen x b g) = fun _ => b := by
    funext k
    simp [part, subBlock]
  simp [groupParts, List.length_flatten, h]

@[simp] theorem realp_length (y : List Cplx) : (realp y).length = y.length := by simp [realp]

@[simp] theorem cmulv_length (u v : List Cplx) : (cmulv u v).length = min u.length v.length := by simp [cmulv]

@[simp] theorem conjv_length (u : List Cplx) : (conjv u).length = u.length := by simp [conjv]

@[simp] theorem whiten_length (u : List Cplx) : (whiten u).length = u.length := by simp [whiten]

@[simp] theorem bpmask_length (i0 i1 : Nat) (x : List Cplx) : (bpmask i0 i1 x).length = x.length := by simp [bpmask]

@[simp] theorem hrot_length (cls : Config.NyqClass) (u : List Cplx) : (hrot cls u).length = u.length := by simp [hrot]

@[simp] theorem hilbert_length (gen : Config.TwiddleGen) (cls : Config.NyqClass) (x : List F32) (n : Nat) :
    (hilbert gen cls x n).length = x.length := by simp [hilbert]

@[simp] theorem decim_length (w : List Cplx) (step n1 : Nat) : (decim w step n1).length = n1 := by simp [decim]

theorem zstuff_length (u : List Cplx) {t : Nat} (h : 1 ≤ t) : (zstuff u t).length = t * u.length := by
  have : u.length ≤ t * u.length := Nat.le_mul_of_pos_left _ h
  simp only [zstuff, List.length_append, List.length_take, List.length_replicate, List.length_drop]
  omega

end Sys2Proof.Machine
end

