-- ==== Sys2Proof/Laws/Commands.lean ====
section
/-! SUPPORT. Everything a command with checks can do, one lemma a command: its checks hold and it completed with the
effect of its rule, or it took a fault from the state before it. Proofs about such a command start from here and do not
unfold it. -/

namespace Sys2Proof.Machine

open Sys2Proof

set_option linter.unusedSimpArgs false

variable {s t : State}

theorem execCzero_next {cd : Fin 4} {pn : Fin 16} (h : execCzero cd pn s = .next t) :
    (s.idx pn ≤ s.cap ∧
      t = State.advance (s.setCplxBuf cd (List.replicate (s.idx pn) Cplx.zero))) ∨
    ∃ c v, t = s.takeFault c v := by
  obtain ⟨u, hu, rfl⟩ | ⟨c, v, -, e⟩ := finish_cases h
  · left
    simp only [inPlace, requirePow2, bind_eq_ok, pure_eq_ok, requireLift_eq_ok, requireDistinct_eq_ok, require_eq_ok,
      elementIndex_eq_ok, decide_eq_true_eq, Bool.not_eq_true', exists_and_left, exists_const] at hu
    grind
  · exact .inr ⟨c, v, e⟩

theorem execRzero_next {rd : Fin 4} {pn : Fin 16} (h : execRzero rd pn s = .next t) :
    (s.idx pn ≤ s.cap ∧
      t = State.advance (s.setRealBuf rd (List.replicate (s.idx pn) F32.zero))) ∨
    ∃ c v, t = s.takeFault c v := by
  obtain ⟨u, hu, rfl⟩ | ⟨c, v, -, e⟩ := finish_cases h
  · left
    simp only [inPlace, requirePow2, bind_eq_ok, pure_eq_ok, requireLift_eq_ok, requireDistinct_eq_ok, require_eq_ok,
      elementIndex_eq_ok, decide_eq_true_eq, Bool.not_eq_true', exists_and_left, exists_const] at hu
    grind
  · exact .inr ⟨c, v, e⟩

theorem execRld_next {pd : Fin 16} {rs : Fin 4} {pi : Fin 16} (h : execRld pd rs pi s = .next t) :
    (s.idx pi < s.rlen rs ∧
      t = State.advance (s.setP pd (s.readReal rs (s.idx pi)))) ∨
    ∃ c v, t = s.takeFault c v := by
  obtain ⟨u, hu, rfl⟩ | ⟨c, v, -, e⟩ := finish_cases h
  · left
    simp only [inPlace, requirePow2, bind_eq_ok, pure_eq_ok, requireLift_eq_ok, requireDistinct_eq_ok, require_eq_ok,
      elementIndex_eq_ok, decide_eq_true_eq, Bool.not_eq_true', exists_and_left, exists_const] at hu
    grind
  · exact .inr ⟨c, v, e⟩

theorem execRst_next {rd : Fin 4} {pi ps : Fin 16} (h : execRst rd pi ps s = .next t) :
    (s.idx pi < s.rlen rd ∧
      t = State.advance (s.writeReal rd (s.idx pi) (s.real ps))) ∨
    ∃ c v, t = s.takeFault c v := by
  obtain ⟨u, hu, rfl⟩ | ⟨c, v, -, e⟩ := finish_cases h
  · left
    simp only [inPlace, requirePow2, bind_eq_ok, pure_eq_ok, requireLift_eq_ok, requireDistinct_eq_ok, require_eq_ok,
      elementIndex_eq_ok, decide_eq_true_eq, Bool.not_eq_true', exists_and_left, exists_const] at hu
    grind
  · exact .inr ⟨c, v, e⟩

theorem execZld_next {zd : Fin 8} {cs : Fin 4} {pi : Fin 16} (h : execZld zd cs pi s = .next t) :
    (s.idx pi < s.clen cs ∧
      t = State.advance (s.setZ zd (s.readCplx cs (s.idx pi)))) ∨
    ∃ c v, t = s.takeFault c v := by
  obtain ⟨u, hu, rfl⟩ | ⟨c, v, -, e⟩ := finish_cases h
  · left
    simp only [inPlace, requirePow2, bind_eq_ok, pure_eq_ok, requireLift_eq_ok, requireDistinct_eq_ok, require_eq_ok,
      elementIndex_eq_ok, decide_eq_true_eq, Bool.not_eq_true', exists_and_left, exists_const] at hu
    grind
  · exact .inr ⟨c, v, e⟩

theorem execZst_next {cd : Fin 4} {pi : Fin 16} {zs : Fin 8} (h : execZst cd pi zs s = .next t) :
    (s.idx pi < s.clen cd ∧
      t = State.advance (s.writeCplx cd (s.idx pi) (s.getZ zs))) ∨
    ∃ c v, t = s.takeFault c v := by
  obtain ⟨u, hu, rfl⟩ | ⟨c, v, -, e⟩ := finish_cases h
  · left
    simp only [inPlace, requirePow2, bind_eq_ok, pure_eq_ok, requireLift_eq_ok, requireDistinct_eq_ok, require_eq_ok,
      elementIndex_eq_ok, decide_eq_true_eq, Bool.not_eq_true', exists_and_left, exists_const] at hu
    grind
  · exact .inr ⟨c, v, e⟩

theorem execZdiv_next {zd za zb : Fin 8} (h : execZdiv zd za zb s = .next t) :
    (F32.feq0 (cnormSq (s.getZ zb)) = false ∧
      t = State.advance (s.setZ zd (cdiv (s.getZ za) (s.getZ zb)))) ∨
    ∃ c v, t = s.takeFault c v := by
  obtain ⟨u, hu, rfl⟩ | ⟨c, v, -, e⟩ := finish_cases h
  · left
    simp only [inPlace, requirePow2, bind_eq_ok, pure_eq_ok, requireLift_eq_ok, requireDistinct_eq_ok, require_eq_ok,
      elementIndex_eq_ok, decide_eq_true_eq, Bool.not_eq_true', exists_and_left, exists_const] at hu
    grind
  · exact .inr ⟨c, v, e⟩

theorem execZdivs_next {zd za : Fin 8} {ps : Fin 16} (h : execZdivs zd za ps s = .next t) :
    (F32.feq0 (s.real ps) = false ∧
      t = State.advance (s.setZ zd (cdivs (s.getZ za) (s.real ps)))) ∨
    ∃ c v, t = s.takeFault c v := by
  obtain ⟨u, hu, rfl⟩ | ⟨c, v, -, e⟩ := finish_cases h
  · left
    simp only [inPlace, requirePow2, bind_eq_ok, pure_eq_ok, requireLift_eq_ok, requireDistinct_eq_ok, require_eq_ok,
      elementIndex_eq_ok, decide_eq_true_eq, Bool.not_eq_true', exists_and_left, exists_const] at hu
    grind
  · exact .inr ⟨c, v, e⟩

theorem execBitrev_next {cb : Fin 4} (h : execBitrev cb s = .next t) :
    (ispow2 (s.clen cb) = true ∧
      t = State.advance (s.updCplxBuf cb (bitrev (s.cplxBuf cb)))) ∨
    ∃ c v, t = s.takeFault c v := by
  obtain ⟨u, hu, rfl⟩ | ⟨c, v, -, e⟩ := finish_cases h
  · left
    simp only [inPlace, requirePow2, bind_eq_ok, pure_eq_ok, requireLift_eq_ok, requireDistinct_eq_ok, require_eq_ok,
      elementIndex_eq_ok, decide_eq_true_eq, Bool.not_eq_true', exists_and_left, exists_const] at hu
    grind
  · exact .inr ⟨c, v, e⟩

theorem execBfly_next {cb : Fin 4} {dir : Dir} (h : execBfly cb dir s = .next t) :
    (ispow2 (s.clen cb) = true ∧
      t = State.advance (s.updCplxBuf cb (stages s.cfg.twiddle dir (s.cplxBuf cb)))) ∨
    ∃ c v, t = s.takeFault c v := by
  obtain ⟨u, hu, rfl⟩ | ⟨c, v, -, e⟩ := finish_cases h
  · left
    simp only [inPlace, requirePow2, bind_eq_ok, pure_eq_ok, requireLift_eq_ok, requireDistinct_eq_ok, require_eq_ok,
      elementIndex_eq_ok, decide_eq_true_eq, Bool.not_eq_true', exists_and_left, exists_const] at hu
    grind
  · exact .inr ⟨c, v, e⟩

theorem execFft_next {cb : Fin 4} (h : execFft cb s = .next t) :
    (ispow2 (s.clen cb) = true ∧
      t = State.advance (s.updCplxBuf cb (fft s.cfg.twiddle (s.cplxBuf cb)))) ∨
    ∃ c v, t = s.takeFault c v := by
  obtain ⟨u, hu, rfl⟩ | ⟨c, v, -, e⟩ := finish_cases h
  · left
    simp only [inPlace, requirePow2, bind_eq_ok, pure_eq_ok, requireLift_eq_ok, requireDistinct_eq_ok, require_eq_ok,
      elementIndex_eq_ok, decide_eq_true_eq, Bool.not_eq_true', exists_and_left, exists_const] at hu
    grind
  · exact .inr ⟨c, v, e⟩

theorem execIfft_next {cb : Fin 4} (h : execIfft cb s = .next t) :
    (ispow2 (s.clen cb) = true ∧
      t = State.advance (s.updCplxBuf cb (ifft s.cfg.twiddle (s.cplxBuf cb)))) ∨
    ∃ c v, t = s.takeFault c v := by
  obtain ⟨u, hu, rfl⟩ | ⟨c, v, -, e⟩ := finish_cases h
  · left
    simp only [inPlace, requirePow2, bind_eq_ok, pure_eq_ok, requireLift_eq_ok, requireDistinct_eq_ok, require_eq_ok,
      elementIndex_eq_ok, decide_eq_true_eq, Bool.not_eq_true', exists_and_left, exists_const] at hu
    grind
  · exact .inr ⟨c, v, e⟩

theorem execTwid_next {zd : Fin 8} {dir : Dir} {pn pk : Fin 16} (h : execTwid zd dir pn pk s = .next t) :
    (ispow2 (s.idx pn) = true ∧ s.idx pn ≤ s.cap ∧
      t = State.advance (s.setZ zd (TW s.cfg.twiddle dir (s.idx pn) (s.idx pk % s.idx pn)))) ∨
    ∃ c v, t = s.takeFault c v := by
  obtain ⟨u, hu, rfl⟩ | ⟨c, v, -, e⟩ := finish_cases h
  · left
    simp only [inPlace, requirePow2, bind_eq_ok, pure_eq_ok, requireLift_eq_ok, requireDistinct_eq_ok, require_eq_ok,
      elementIndex_eq_ok, decide_eq_true_eq, Bool.not_eq_true', exists_and_left, exists_const] at hu
    grind
  · exact .inr ⟨c, v, e⟩

theorem execLift_next {cd rs : Fin 4} {ps : Fin 16} (h : execLift cd rs ps s = .next t) :
    (ispow2 (s.idx ps) = true ∧ s.idx ps ≤ s.cap ∧ s.rlen rs ≤ s.idx ps ∧
      t = State.advance (s.setCplxBuf cd (lift (s.realBuf rs) (s.idx ps)))) ∨
    ∃ c v, t = s.takeFault c v := by
  obtain ⟨u, hu, rfl⟩ | ⟨c, v, -, e⟩ := finish_cases h
  · left
    simp only [inPlace, requirePow2, bind_eq_ok, pure_eq_ok, requireLift_eq_ok, requireDistinct_eq_ok, require_eq_ok,
      elementIndex_eq_ok, decide_eq_true_eq, Bool.not_eq_true', exists_and_left, exists_const] at hu
    grind
  · exact .inr ⟨c, v, e⟩

theorem execRfft_next {cd rs : Fin 4} {ps : Fin 16} (h : execRfft cd rs ps s = .next t) :
    (ispow2 (s.idx ps) = true ∧ s.idx ps ≤ s.cap ∧ s.rlen rs ≤ s.idx ps ∧
      t = State.advance (s.setCplxBuf cd (rfft s.cfg.twiddle (s.realBuf rs) (s.idx ps)))) ∨
    ∃ c v, t = s.takeFault c v := by
  obtain ⟨u, hu, rfl⟩ | ⟨c, v, -, e⟩ := finish_cases h
  · left
    simp only [inPlace, requirePow2, bind_eq_ok, pure_eq_ok, requireLift_eq_ok, requireDistinct_eq_ok, require_eq_ok,
      elementIndex_eq_ok, decide_eq_true_eq, Bool.not_eq_true', exists_and_left, exists_const] at hu
    grind
  · exact .inr ⟨c, v, e⟩

theorem execRfftg_next {cd rs cs : Fin 4} {pb pg : Fin 16} (h : execRfftg cd rs cs pb pg s = .next t) :
    (cd ≠ cs ∧ ispow2 (s.idx pb) = true ∧ ispow2 (s.idx pg) = true ∧ s.idx pb * s.idx pg ≤ s.cap ∧ s.rlen rs ≤ s.idx pb * s.idx pg ∧
      t = State.advance ((s.setCplxBuf cs (groupParts s.cfg.twiddle (s.realBuf rs) (s.idx pb) (s.idx pg)).flatten).setCplxBuf cd
        (rfftg s.cfg.twiddle (s.realBuf rs) (s.idx pb) (s.idx pg)))) ∨
    ∃ c v, t = s.takeFault c v := by
  obtain ⟨u, hu, rfl⟩ | ⟨c, v, -, e⟩ := finish_cases h
  · left
    simp only [inPlace, requirePow2, bind_eq_ok, pure_eq_ok, requireLift_eq_ok, requireDistinct_eq_ok, require_eq_ok,
      elementIndex_eq_ok, decide_eq_true_eq, Bool.not_eq_true', exists_and_left, exists_const] at hu
    grind
  · exact .inr ⟨c, v, e⟩

theorem execBpedge_next {pd pn pfs pf0 pbw : Fin 16} (h : execBpedge pd pn pfs pf0 pbw s = .next t) :
    (∃ i0 i1, ispow2 (s.idx pn) = true ∧ s.idx pn ≤ s.cap ∧ bpedge (s.idx pn) (s.real pfs) (s.real pf0) (s.real pbw) = .ok (i0, i1) ∧
      t = State.advance ((((s.setBlockP pd 0 (BitVec.ofNat 32 i0)).setBlockP pd 1 (BitVec.ofNat 32 i1)).setBlockP pd 2
        (BitVec.ofNat 32 (mirror (s.idx pn) i0 i1).1)).setBlockP pd 3 (BitVec.ofNat 32 (mirror (s.idx pn) i0 i1).2))) ∨
    ∃ c v, t = s.takeFault c v := by
  obtain ⟨u, hu, rfl⟩ | ⟨c, v, -, e⟩ := finish_cases h
  · left
    simp only [inPlace, requirePow2, bind_eq_ok, pure_eq_ok, requireLift_eq_ok, requireDistinct_eq_ok, require_eq_ok,
      elementIndex_eq_ok, decide_eq_true_eq, Bool.not_eq_true', exists_and_left, exists_const] at hu
    grind
  · exact .inr ⟨c, v, e⟩

theorem execBpmask_next {cb : Fin 4} {pi : Fin 16} (h : execBpmask cb pi s = .next t) :
    (ispow2 (s.clen cb) = true ∧ (s.blockP pi 1).toNat < s.clen cb / 2 ∧ (s.blockP pi 0).toNat ≤ (s.blockP pi 1).toNat ∧
      t = State.advance (s.updCplxBuf cb (bpmask (s.blockP pi 0).toNat (s.blockP pi 1).toNat (s.cplxBuf cb)))) ∨
    ∃ c v, t = s.takeFault c v := by
  obtain ⟨u, hu, rfl⟩ | ⟨c, v, -, e⟩ := finish_cases h
  · left
    simp only [inPlace, requirePow2, bind_eq_ok, pure_eq_ok, requireLift_eq_ok, requireDistinct_eq_ok, require_eq_ok,
      elementIndex_eq_ok, decide_eq_true_eq, Bool.not_eq_true', exists_and_left, exists_const] at hu
    grind
  · exact .inr ⟨c, v, e⟩

theorem execBpf_next {cb : Fin 4} {pfs pf0 pbw : Fin 16} (h : execBpf cb pfs pf0 pbw s = .next t) :
    (∃ i0 i1, ispow2 (s.clen cb) = true ∧ bpedge (s.clen cb) (s.real pfs) (s.real pf0) (s.real pbw) = .ok (i0, i1) ∧
      t = State.advance (s.updCplxBuf cb (bpmask i0 i1 (s.cplxBuf cb)))) ∨
    ∃ c v, t = s.takeFault c v := by
  obtain ⟨u, hu, rfl⟩ | ⟨c, v, -, e⟩ := finish_cases h
  · left
    simp only [inPlace, requirePow2, bind_eq_ok, pure_eq_ok, requireLift_eq_ok, requireDistinct_eq_ok, require_eq_ok,
      elementIndex_eq_ok, decide_eq_true_eq, Bool.not_eq_true', exists_and_left, exists_const] at hu
    grind
  · exact .inr ⟨c, v, e⟩

theorem execCmulv_next {cd cs : Fin 4} (h : execCmulv cd cs s = .next t) :
    (s.clen cs = s.clen cd ∧
      t = State.advance (s.updCplxBuf cd (cmulv (s.cplxBuf cd) (s.cplxBuf cs)))) ∨
    ∃ c v, t = s.takeFault c v := by
  obtain ⟨u, hu, rfl⟩ | ⟨c, v, -, e⟩ := finish_cases h
  · left
    simp only [inPlace, requirePow2, bind_eq_ok, pure_eq_ok, requireLift_eq_ok, requireDistinct_eq_ok, require_eq_ok,
      elementIndex_eq_ok, decide_eq_true_eq, Bool.not_eq_true', exists_and_left, exists_const] at hu
    grind
  · exact .inr ⟨c, v, e⟩

theorem execConv_next {rd ra rb ca cb : Fin 4} {ps : Fin 16} (h : execConv rd ra rb ca cb ps s = .next t) :
    (ca ≠ cb ∧ ispow2 (s.idx ps) = true ∧ s.idx ps ≤ s.cap ∧ s.rlen ra ≤ s.idx ps ∧ s.rlen rb ≤ s.idx ps ∧
      t = State.advance (((s.setCplxBuf ca (ifft s.cfg.twiddle (cmulv (rfft s.cfg.twiddle (s.realBuf ra) (s.idx ps))
          (rfft s.cfg.twiddle (s.realBuf rb) (s.idx ps))))).setCplxBuf cb
        (rfft s.cfg.twiddle (s.realBuf rb) (s.idx ps))).setRealBuf rd (realp (ifft s.cfg.twiddle
          (cmulv (rfft s.cfg.twiddle (s.realBuf ra) (s.idx ps)) (rfft s.cfg.twiddle (s.realBuf rb) (s.idx ps))))))) ∨
    ∃ c v, t = s.takeFault c v := by
  obtain ⟨u, hu, rfl⟩ | ⟨c, v, -, e⟩ := finish_cases h
  · left
    simp only [inPlace, requirePow2, bind_eq_ok, pure_eq_ok, requireLift_eq_ok, requireDistinct_eq_ok, require_eq_ok,
      elementIndex_eq_ok, decide_eq_true_eq, Bool.not_eq_true', exists_and_left, exists_const] at hu
    grind
  · exact .inr ⟨c, v, e⟩

theorem execXcinit_next {cf rs : Fin 4} {ps : Fin 16} (h : execXcinit cf rs ps s = .next t) :
    (ispow2 (s.idx ps) = true ∧ s.idx ps ≤ s.cap ∧ s.rlen rs ≤ s.idx ps ∧
      t = State.advance (s.setCplxBuf cf (xcinit s.cfg.twiddle (s.realBuf rs) (s.idx ps)))) ∨
    ∃ c v, t = s.takeFault c v := by
  obtain ⟨u, hu, rfl⟩ | ⟨c, v, -, e⟩ := finish_cases h
  · left
    simp only [inPlace, requirePow2, bind_eq_ok, pure_eq_ok, requireLift_eq_ok, requireDistinct_eq_ok, require_eq_ok,
      elementIndex_eq_ok, decide_eq_true_eq, Bool.not_eq_true', exists_and_left, exists_const] at hu
    grind
  · exact .inr ⟨c, v, e⟩

theorem execXcorr_next {rsig cf cw : Fin 4} (h : execXcorr rsig cf cw s = .next t) :
    (cw ≠ cf ∧ ispow2 (s.clen cf) = true ∧ s.rlen rsig = s.clen cf ∧
      t = State.advance ((s.setCplxBuf cw (xcorr s.cfg.twiddle (s.cplxBuf cf) (s.realBuf rsig))).updRealBuf rsig
        (realp (xcorr s.cfg.twiddle (s.cplxBuf cf) (s.realBuf rsig))))) ∨
    ∃ c v, t = s.takeFault c v := by
  obtain ⟨u, hu, rfl⟩ | ⟨c, v, -, e⟩ := finish_cases h
  · left
    simp only [inPlace, requirePow2, bind_eq_ok, pure_eq_ok, requireLift_eq_ok, requireDistinct_eq_ok, require_eq_ok,
      elementIndex_eq_ok, decide_eq_true_eq, Bool.not_eq_true', exists_and_left, exists_const] at hu
    grind
  · exact .inr ⟨c, v, e⟩

theorem execZstuff_next {cd cs : Fin 4} {pt : Fin 16} (h : execZstuff cd cs pt s = .next t) :
    (cd ≠ cs ∧ ispow2 (s.clen cs) = true ∧ ispow2 (s.idx pt) = true ∧ s.idx pt * s.clen cs ≤ s.cap ∧ 2 ≤ s.clen cs ∧
      t = State.advance (s.setCplxBuf cd (zstuff (s.cplxBuf cs) (s.idx pt)))) ∨
    ∃ c v, t = s.takeFault c v := by
  obtain ⟨u, hu, rfl⟩ | ⟨c, v, -, e⟩ := finish_cases h
  · left
    simp only [inPlace, requirePow2, bind_eq_ok, pure_eq_ok, requireLift_eq_ok, requireDistinct_eq_ok, require_eq_ok,
      elementIndex_eq_ok, decide_eq_true_eq, Bool.not_eq_true', exists_and_left, exists_const] at hu
    grind
  · exact .inr ⟨c, v, e⟩

theorem execDecim_next {rd cs : Fin 4} {pstep pn : Fin 16} (h : execDecim rd cs pstep pn s = .next t) :
    (s.idx pn ≤ s.cap ∧ s.idx pstep ≠ 0 ∧
      t = State.advance (s.setRealBuf rd (decim (s.cplxBuf cs) (s.idx pstep) (s.idx pn)))) ∨
    ∃ c v, t = s.takeFault c v := by
  obtain ⟨u, hu, rfl⟩ | ⟨c, v, -, e⟩ := finish_cases h
  · left
    simp only [inPlace, requirePow2, bind_eq_ok, pure_eq_ok, requireLift_eq_ok, requireDistinct_eq_ok, require_eq_ok,
      elementIndex_eq_ok, decide_eq_true_eq, Bool.not_eq_true', exists_and_left, exists_const] at hu
    grind
  · exact .inr ⟨c, v, e⟩

theorem execResamp_next {rd rs ca cb : Fin 4} {pbase : Fin 16} (h : execResamp rd rs ca cb pbase s = .next t) :
    (∃ step, ca ≠ cb ∧ ispow2 (s.blockP pbase 0).toNat = true ∧ ispow2 (s.blockP pbase 2).toNat = true ∧ (s.blockP pbase 2).toNat * (s.blockP pbase 0).toNat ≤ s.cap ∧ s.rlen rs ≤ (s.blockP pbase 0).toNat ∧ (s.blockP pbase 1).toNat ≤ s.cap ∧ 2 ≤ (s.blockP pbase 0).toNat ∧ decimStep (stepQuotient (s.blockP pbase 3) (s.blockP pbase 2).toNat (s.blockP pbase 4)) = .ok step ∧
      t = State.advance (((s.setCplxBuf ca (rfft s.cfg.twiddle (s.realBuf rs) (s.blockP pbase 0).toNat)).setCplxBuf cb
        (ifft s.cfg.twiddle (zstuff (rfft s.cfg.twiddle (s.realBuf rs) (s.blockP pbase 0).toNat)
          (s.blockP pbase 2).toNat))).setRealBuf rd
        (decim (ifft s.cfg.twiddle (zstuff (rfft s.cfg.twiddle (s.realBuf rs) (s.blockP pbase 0).toNat)
          (s.blockP pbase 2).toNat)) step (s.blockP pbase 1).toNat))) ∨
    ∃ c v, t = s.takeFault c v := by
  obtain ⟨u, hu, rfl⟩ | ⟨c, v, -, e⟩ := finish_cases h
  · left
    simp only [inPlace, requirePow2, bind_eq_ok, pure_eq_ok, requireLift_eq_ok, requireDistinct_eq_ok, require_eq_ok,
      elementIndex_eq_ok, decide_eq_true_eq, Bool.not_eq_true', exists_and_left, exists_const] at hu
    grind
  · exact .inr ⟨c, v, e⟩

theorem execHrot_next {cb : Fin 4} (h : execHrot cb s = .next t) :
    (ispow2 (s.clen cb) = true ∧
      t = State.advance (s.updCplxBuf cb (hrot s.cfg.hilNyq (s.cplxBuf cb)))) ∨
    ∃ c v, t = s.takeFault c v := by
  obtain ⟨u, hu, rfl⟩ | ⟨c, v, -, e⟩ := finish_cases h
  · left
    simp only [inPlace, requirePow2, bind_eq_ok, pure_eq_ok, requireLift_eq_ok, requireDistinct_eq_ok, require_eq_ok,
      elementIndex_eq_ok, decide_eq_true_eq, Bool.not_eq_true', exists_and_left, exists_const] at hu
    grind
  · exact .inr ⟨c, v, e⟩

theorem execHilb_next {cd rs : Fin 4} {pn : Fin 16} (h : execHilb cd rs pn s = .next t) :
    (ispow2 (s.idx pn) = true ∧ s.idx pn ≤ s.cap ∧ s.rlen rs ≤ s.idx pn ∧
      t = State.advance (s.setCplxBuf cd (hilbert s.cfg.twiddle s.cfg.hilNyq (s.realBuf rs) (s.idx pn)))) ∨
    ∃ c v, t = s.takeFault c v := by
  obtain ⟨u, hu, rfl⟩ | ⟨c, v, -, e⟩ := finish_cases h
  · left
    simp only [inPlace, requirePow2, bind_eq_ok, pure_eq_ok, requireLift_eq_ok, requireDistinct_eq_ok, require_eq_ok,
      elementIndex_eq_ok, decide_eq_true_eq, Bool.not_eq_true', exists_and_left, exists_const] at hu
    grind
  · exact .inr ⟨c, v, e⟩

theorem execWords_next {pn : Fin 16} (h : execWords pn s = .next t) :
    (1 ≤ s.idx pn ∧ s.idx pn ≤ s.cfg.wLogDim + 1 ∧
      t = State.advance ({ s with WORD := s.idx pn, WT := [] })) ∨
    ∃ c v, t = s.takeFault c v := by
  obtain ⟨u, hu, rfl⟩ | ⟨c, v, -, e⟩ := finish_cases h
  · left
    simp only [inPlace, requirePow2, bind_eq_ok, pure_eq_ok, requireLift_eq_ok, requireDistinct_eq_ok, require_eq_ok,
      elementIndex_eq_ok, decide_eq_true_eq, Bool.not_eq_true', exists_and_left, exists_const] at hu
    grind
  · exact .inr ⟨c, v, e⟩

theorem execWget_next {pd pi pj : Fin 16} (h : execWget pd pi pj s = .next t) :
    (s.WORD ≠ 0 ∧ s.idx pi < s.walshDim ∧ s.idx pj < s.walshDim ∧
      t = State.advance ((s.touchChain (s.idx pi) (s.idx pj)).setP pd (signWord (walsh s.cfg.walshNeg s.WORD (s.idx pi) (s.idx pj))))) ∨
    ∃ c v, t = s.takeFault c v := by
  obtain ⟨u, hu, rfl⟩ | ⟨c, v, -, e⟩ := finish_cases h
  · left
    simp only [inPlace, requirePow2, bind_eq_ok, pure_eq_ok, requireLift_eq_ok, requireDistinct_eq_ok, require_eq_ok,
      elementIndex_eq_ok, decide_eq_true_eq, Bool.not_eq_true', exists_and_left, exists_const] at hu
    grind
  · exact .inr ⟨c, v, e⟩

theorem execWfill_next (h : execWfill s = .next t) :
    (s.WORD ≠ 0 ∧
      t = State.advance (s.touchAll)) ∨
    ∃ c v, t = s.takeFault c v := by
  obtain ⟨u, hu, rfl⟩ | ⟨c, v, -, e⟩ := finish_cases h
  · left
    simp only [inPlace, requirePow2, bind_eq_ok, pure_eq_ok, requireLift_eq_ok, requireDistinct_eq_ok, require_eq_ok,
      elementIndex_eq_ok, decide_eq_true_eq, Bool.not_eq_true', exists_and_left, exists_const] at hu
    grind
  · exact .inr ⟨c, v, e⟩

end Sys2Proof.Machine
end

