-- ==== Sys2Proof/Laws/Encoding.lean ====
section
/-! SUPPORT. Reading back the fields of an encoded word: the two word shapes are numbers below 2^32, and each field of
one is what was put there. -/

namespace Sys2Proof

theorem wordR_toNat {op a b c d e f : Nat} (hop : op < 256) (ha : a < 16) (hb : b < 16) (hc : c < 16) (hd : d < 16)
    (he : e < 16) (hf : f < 16) :
    (wordR op a b c d e f).toNat =
      op * 2 ^ 24 + a * 2 ^ 20 + b * 2 ^ 16 + c * 2 ^ 12 + d * 2 ^ 8 + e * 2 ^ 4 + f := by
  unfold wordR
  rw [BitVec.toNat_ofNat]
  omega

theorem wordI_toNat {op a : Nat} (imm : BitVec 16) (hop : op < 256) (ha : a < 16) :
    (wordI op a imm).toNat = op * 2 ^ 24 + a * 2 ^ 20 + imm.toNat := by
  unfold wordI
  have := imm.isLt
  rw [BitVec.toNat_ofNat]
  omega

theorem opcode_wordR {op a b c d e f : Nat} (hop : op < 256) (ha : a < 16) (hb : b < 16) (hc : c < 16) (hd : d < 16)
    (he : e < 16) (hf : f < 16) : opcode (wordR op a b c d e f) = op := by
  unfold opcode
  rw [wordR_toNat hop ha hb hc hd he hf]
  omega

theorem opcode_wordI {op a : Nat} (imm : BitVec 16) (hop : op < 256) (ha : a < 16) : opcode (wordI op a imm) = op := by
  have := imm.isLt
  unfold opcode
  rw [wordI_toNat imm hop ha]
  omega

theorem field_a_wordR {op a b c d e f : Nat} (hop : op < 256) (ha : a < 16) (hb : b < 16) (hc : c < 16) (hd : d < 16)
    (he : e < 16) (hf : f < 16) : field (wordR op a b c d e f) 20 = a := by
  unfold field
  rw [wordR_toNat hop ha hb hc hd he hf]
  omega

theorem field_b_wordR {op a b c d e f : Nat} (hop : op < 256) (ha : a < 16) (hb : b < 16) (hc : c < 16) (hd : d < 16)
    (he : e < 16) (hf : f < 16) : field (wordR op a b c d e f) 16 = b := by
  unfold field
  rw [wordR_toNat hop ha hb hc hd he hf]
  omega

theorem field_c_wordR {op a b c d e f : Nat} (hop : op < 256) (ha : a < 16) (hb : b < 16) (hc : c < 16) (hd : d < 16)
    (he : e < 16) (hf : f < 16) : field (wordR op a b c d e f) 12 = c := by
  unfold field
  rw [wordR_toNat hop ha hb hc hd he hf]
  omega

theorem field_d_wordR {op a b c d e f : Nat} (hop : op < 256) (ha : a < 16) (hb : b < 16) (hc : c < 16) (hd : d < 16)
    (he : e < 16) (hf : f < 16) : field (wordR op a b c d e f) 8 = d := by
  unfold field
  rw [wordR_toNat hop ha hb hc hd he hf]
  omega

theorem field_e_wordR {op a b c d e f : Nat} (hop : op < 256) (ha : a < 16) (hb : b < 16) (hc : c < 16) (hd : d < 16)
    (he : e < 16) (hf : f < 16) : field (wordR op a b c d e f) 4 = e := by
  unfold field
  rw [wordR_toNat hop ha hb hc hd he hf]
  omega

theorem field_f_wordR {op a b c d e f : Nat} (hop : op < 256) (ha : a < 16) (hb : b < 16) (hc : c < 16) (hd : d < 16)
    (he : e < 16) (hf : f < 16) : field (wordR op a b c d e f) 0 = f := by
  unfold field
  rw [wordR_toNat hop ha hb hc hd he hf]
  omega

theorem field_a_wordI {op a : Nat} (imm : BitVec 16) (hop : op < 256) (ha : a < 16) : field (wordI op a imm) 20 = a := by
  have := imm.isLt
  unfold field
  rw [wordI_toNat imm hop ha]
  omega

theorem field_b_wordI {op a : Nat} (imm : BitVec 16) (hop : op < 256) (ha : a < 16) : field (wordI op a imm) 16 = 0 := by
  have := imm.isLt
  unfold field
  rw [wordI_toNat imm hop ha]
  omega

theorem imm16_wordI {op a : Nat} (imm : BitVec 16) (hop : op < 256) (ha : a < 16) : imm16 (wordI op a imm) = imm := by
  have := imm.isLt
  apply BitVec.eq_of_toNat_eq
  rw [imm16, BitVec.toNat_setWidth, wordI_toNat imm hop ha]
  omega

@[simp] theorem asP_val (i : Fin 16) : asP i.val = some i := by simp [asP]

@[simp] theorem asZ_val (i : Fin 8) : asZ i.val = some i := by simp [asZ]

@[simp] theorem asBank_val (i : Fin 4) : asBank i.val = some i := by simp [asBank]

@[simp] theorem asDir_code (d : Dir) : asDir d.code = some d := by cases d <;> rfl

theorem asP_eq_some {n : Nat} {i : Fin 16} : asP n = some i ↔ n = i.val := by
  unfold asP
  split <;> simp [Fin.ext_iff] <;> omega

theorem asZ_eq_some {n : Nat} {i : Fin 8} : asZ n = some i ↔ n = i.val := by
  unfold asZ
  split <;> simp [Fin.ext_iff] <;> omega

theorem asBank_eq_some {n : Nat} {i : Fin 4} : asBank n = some i ↔ n = i.val := by
  unfold asBank
  split <;> simp [Fin.ext_iff] <;> omega

theorem asDir_eq_some {n : Nat} {d : Dir} : asDir n = some d ↔ n = d.code := by
  unfold asDir
  cases d <;> split <;> simp_all [Dir.code]

theorem Dir.code_lt (d : Dir) : d.code < 16 := by cases d <;> decide

theorem must_eq_some {p : Prop} [Decidable p] {u : Unit} : must p = some u ↔ p := by
  unfold must
  split <;> simp_all

end Sys2Proof
end

