-- ==== Sys2Proof/Laws/Host.lean ====
section
/-! SUPPORT. What a host write of a length register does to its bank: the length, and the words it keeps. -/

namespace Sys2Proof.Machine.State

open Sys2Proof

@[simp] theorem hostLength_len (g : Config.Region) (per n : Nat) (b : Bank) : (hostLength g per b n).len = n := by
  unfold hostLength
  split <;> rfl

theorem hostLength_read_below (g : Config.Region) (per n : Nat) (b : Bank) {i : Nat} (h : i < per * n) :
    (hostLength g per b n).mem.read g i = b.mem.read g i := by
  unfold hostLength
  split
  · rfl
  · rw [Mem.read_fresh _ _ _ (by simpa using h)]
    simp

theorem hostLength_raise (g : Config.Region) (per n : Nat) (b : Bank) (h : b.len ≤ n) :
    hostLength g per b n = { b with len := n } := if_pos h

theorem writeHostWord_rlen (s : State) (v : Word) (r : Fin 4) (h : v.toNat ≤ s.cap) :
    s.writeHostWord v (.rlen r) = { s with RB := s.RB.set r (hostLength (.real r) 1 s.RB[r] v.toNat) } := if_pos h

theorem writeHostWord_clen (s : State) (v : Word) (b : Fin 4) (h : v.toNat ≤ s.cap) :
    s.writeHostWord v (.clen b) = { s with CB := s.CB.set b (hostLength (.cplx b) 2 s.CB[b] v.toNat) } := if_pos h

end Sys2Proof.Machine.State
end

