-- ==== Sys2Proof/Laws/PerInstr.lean ====
section
/-! SUPPORT. The statements made of every instruction as syntax, one lemma a constructor. -/

namespace Sys2Proof.Laws.Opcode

open Sys2Proof

/-- The word of a command carries the opcode of the row of 30_encoding R106 that has its mnemonic. -/
def Statement (i : Instr) : Prop := ∃ row ∈ opcodeTable, row.mnemonic = i.mnemonic ∧ opcode (encode i) = opcode row.pattern

theorem row {i : Instr} (k : Nat) (hk : k < opcodeTable.length) (hm : opcodeTable[k].mnemonic = i.mnemonic)
    (ho : opcode (encode i) = opcode opcodeTable[k].pattern) : Statement i :=
  ⟨opcodeTable[k], List.getElem_mem hk, hm, ho⟩

theorem nop : Statement .nop :=
  row 0 (by decide) rfl (by simp only [encode]; rw [opcode_wordR] <;> first | rfl | omega)

theorem halt : Statement .halt :=
  row 1 (by decide) rfl (by simp only [encode]; rw [opcode_wordR] <;> first | rfl | omega)

theorem setlo (pd : Fin 16) (imm : BitVec 16) : Statement (.setlo pd imm) :=
  row 2 (by decide) rfl (by simp only [encode]; rw [opcode_wordI] <;> first | rfl | omega)

theorem sethi (pd : Fin 16) (imm : BitVec 16) : Statement (.sethi pd imm) :=
  row 3 (by decide) rfl (by simp only [encode]; rw [opcode_wordI] <;> first | rfl | omega)

theorem movp (pd ps : Fin 16) : Statement (.movp pd ps) :=
  row 4 (by decide) rfl (by simp only [encode]; rw [opcode_wordR] <;> first | rfl | omega)

theorem ccopy (cd cs : Fin 4) : Statement (.ccopy cd cs) :=
  row 5 (by decide) rfl (by simp only [encode]; rw [opcode_wordR] <;> first | rfl | omega)

theorem rcopy (rd rs : Fin 4) : Statement (.rcopy rd rs) :=
  row 6 (by decide) rfl (by simp only [encode]; rw [opcode_wordR] <;> first | rfl | omega)

theorem czero (cd : Fin 4) (pn : Fin 16) : Statement (.czero cd pn) :=
  row 7 (by decide) rfl (by simp only [encode]; rw [opcode_wordR] <;> first | rfl | omega)

theorem rzero (rd : Fin 4) (pn : Fin 16) : Statement (.rzero rd pn) :=
  row 8 (by decide) rfl (by simp only [encode]; rw [opcode_wordR] <;> first | rfl | omega)

theorem rld (pd : Fin 16) (rs : Fin 4) (pi : Fin 16) : Statement (.rld pd rs pi) :=
  row 9 (by decide) rfl (by simp only [encode]; rw [opcode_wordR] <;> first | rfl | omega)

theorem rst (rd : Fin 4) (pi ps : Fin 16) : Statement (.rst rd pi ps) :=
  row 10 (by decide) rfl (by simp only [encode]; rw [opcode_wordR] <;> first | rfl | omega)

theorem zmk (zd : Fin 8) (pa pb : Fin 16) : Statement (.zmk zd pa pb) :=
  row 11 (by decide) rfl (by simp only [encode]; rw [opcode_wordR] <;> first | rfl | omega)

theorem zre (pd : Fin 16) (zs : Fin 8) : Statement (.zre pd zs) :=
  row 12 (by decide) rfl (by simp only [encode]; rw [opcode_wordR] <;> first | rfl | omega)

theorem zim (pd : Fin 16) (zs : Fin 8) : Statement (.zim pd zs) :=
  row 13 (by decide) rfl (by simp only [encode]; rw [opcode_wordR] <;> first | rfl | omega)

theorem zld (zd : Fin 8) (cs : Fin 4) (pi : Fin 16) : Statement (.zld zd cs pi) :=
  row 14 (by decide) rfl (by simp only [encode]; rw [opcode_wordR] <;> first | rfl | omega)

theorem zst (cd : Fin 4) (pi : Fin 16) (zs : Fin 8) : Statement (.zst cd pi zs) :=
  row 15 (by decide) rfl (by simp only [encode]; rw [opcode_wordR] <;> first | rfl | omega)

theorem zadd (zd za zb : Fin 8) : Statement (.zadd zd za zb) :=
  row 16 (by decide) rfl (by simp only [encode]; rw [opcode_wordR] <;> first | rfl | omega)

theorem zsub (zd za zb : Fin 8) : Statement (.zsub zd za zb) :=
  row 17 (by decide) rfl (by simp only [encode]; rw [opcode_wordR] <;> first | rfl | omega)

theorem zmul (zd za zb : Fin 8) : Statement (.zmul zd za zb) :=
  row 18 (by decide) rfl (by simp only [encode]; rw [opcode_wordR] <;> first | rfl | omega)

theorem zdiv (zd za zb : Fin 8) : Statement (.zdiv zd za zb) :=
  row 19 (by decide) rfl (by simp only [encode]; rw [opcode_wordR] <;> first | rfl | omega)

theorem zdivs (zd za : Fin 8) (ps : Fin 16) : Statement (.zdivs zd za ps) :=
  row 20 (by decide) rfl (by simp only [encode]; rw [opcode_wordR] <;> first | rfl | omega)

theorem zmag (pd : Fin 16) (zs : Fin 8) : Statement (.zmag pd zs) :=
  row 21 (by decide) rfl (by simp only [encode]; rw [opcode_wordR] <;> first | rfl | omega)

theorem zphase (pd : Fin 16) (zs : Fin 8) : Statement (.zphase pd zs) :=
  row 22 (by decide) rfl (by simp only [encode]; rw [opcode_wordR] <;> first | rfl | omega)

theorem znorm (zd zs : Fin 8) : Statement (.znorm zd zs) :=
  row 23 (by decide) rfl (by simp only [encode]; rw [opcode_wordR] <;> first | rfl | omega)

theorem zisz (pd : Fin 16) (zs : Fin 8) : Statement (.zisz pd zs) :=
  row 24 (by decide) rfl (by simp only [encode]; rw [opcode_wordR] <;> first | rfl | omega)

theorem zconj (zd zs : Fin 8) : Statement (.zconj zd zs) :=
  row 25 (by decide) rfl (by simp only [encode]; rw [opcode_wordR] <;> first | rfl | omega)

theorem bitrev (cb : Fin 4) : Statement (.bitrev cb) :=
  row 26 (by decide) rfl (by simp only [encode]; rw [opcode_wordR] <;> first | rfl | omega)

theorem bfly (cb : Fin 4) (dir : Dir) : Statement (.bfly cb dir) :=
  row 27 (by decide) rfl (by have := dir.code_lt; simp only [encode]; rw [opcode_wordR] <;> first | rfl | omega)

theorem fft (cb : Fin 4) : Statement (.fft cb) :=
  row 28 (by decide) rfl (by simp only [encode]; rw [opcode_wordR] <;> first | rfl | omega)

theorem ifft (cb : Fin 4) : Statement (.ifft cb) :=
  row 29 (by decide) rfl (by simp only [encode]; rw [opcode_wordR] <;> first | rfl | omega)

theorem twid (zd : Fin 8) (dir : Dir) (pn pk : Fin 16) : Statement (.twid zd dir pn pk) :=
  row 30 (by decide) rfl (by have := dir.code_lt; simp only [encode]; rw [opcode_wordR] <;> first | rfl | omega)

theorem lift (cd rs : Fin 4) (ps : Fin 16) : Statement (.lift cd rs ps) :=
  row 31 (by decide) rfl (by simp only [encode]; rw [opcode_wordR] <;> first | rfl | omega)

theorem rfft (cd rs : Fin 4) (ps : Fin 16) : Statement (.rfft cd rs ps) :=
  row 32 (by decide) rfl (by simp only [encode]; rw [opcode_wordR] <;> first | rfl | omega)

theorem rfftg (cd rs cs : Fin 4) (pb pg : Fin 16) : Statement (.rfftg cd rs cs pb pg) :=
  row 33 (by decide) rfl (by simp only [encode]; rw [opcode_wordR] <;> first | rfl | omega)

theorem realp (rd cs : Fin 4) : Statement (.realp rd cs) :=
  row 34 (by decide) rfl (by simp only [encode]; rw [opcode_wordR] <;> first | rfl | omega)

theorem bpedge (pd pn pfs pf0 pbw : Fin 16) : Statement (.bpedge pd pn pfs pf0 pbw) :=
  row 35 (by decide) rfl (by simp only [encode]; rw [opcode_wordR] <;> first | rfl | omega)

theorem bpmask (cb : Fin 4) (pi : Fin 16) : Statement (.bpmask cb pi) :=
  row 36 (by decide) rfl (by simp only [encode]; rw [opcode_wordR] <;> first | rfl | omega)

theorem bpf (cb : Fin 4) (pfs pf0 pbw : Fin 16) : Statement (.bpf cb pfs pf0 pbw) :=
  row 37 (by decide) rfl (by simp only [encode]; rw [opcode_wordR] <;> first | rfl | omega)

theorem cmulv (cd cs : Fin 4) : Statement (.cmulv cd cs) :=
  row 38 (by decide) rfl (by simp only [encode]; rw [opcode_wordR] <;> first | rfl | omega)

theorem conv (rd ra rb ca cb : Fin 4) (ps : Fin 16) : Statement (.conv rd ra rb ca cb ps) :=
  row 39 (by decide) rfl (by simp only [encode]; rw [opcode_wordR] <;> first | rfl | omega)

theorem conjv (cb : Fin 4) : Statement (.conjv cb) :=
  row 40 (by decide) rfl (by simp only [encode]; rw [opcode_wordR] <;> first | rfl | omega)

theorem whiten (cb : Fin 4) : Statement (.whiten cb) :=
  row 41 (by decide) rfl (by simp only [encode]; rw [opcode_wordR] <;> first | rfl | omega)

theorem xcinit (cf rs : Fin 4) (ps : Fin 16) : Statement (.xcinit cf rs ps) :=
  row 42 (by decide) rfl (by simp only [encode]; rw [opcode_wordR] <;> first | rfl | omega)

theorem xcorr (rsig cf cw : Fin 4) : Statement (.xcorr rsig cf cw) :=
  row 43 (by decide) rfl (by simp only [encode]; rw [opcode_wordR] <;> first | rfl | omega)

theorem zstuff (cd cs : Fin 4) (pt : Fin 16) : Statement (.zstuff cd cs pt) :=
  row 44 (by decide) rfl (by simp only [encode]; rw [opcode_wordR] <;> first | rfl | omega)

theorem decim (rd cs : Fin 4) (pstep pn : Fin 16) : Statement (.decim rd cs pstep pn) :=
  row 45 (by decide) rfl (by simp only [encode]; rw [opcode_wordR] <;> first | rfl | omega)

theorem resamp (rd rs ca cb : Fin 4) (pbase : Fin 16) : Statement (.resamp rd rs ca cb pbase) :=
  row 46 (by decide) rfl (by simp only [encode]; rw [opcode_wordR] <;> first | rfl | omega)

theorem hrot (cb : Fin 4) : Statement (.hrot cb) :=
  row 47 (by decide) rfl (by simp only [encode]; rw [opcode_wordR] <;> first | rfl | omega)

theorem hilb (cd rs : Fin 4) (pn : Fin 16) : Statement (.hilb cd rs pn) :=
  row 48 (by decide) rfl (by simp only [encode]; rw [opcode_wordR] <;> first | rfl | omega)

theorem words (pn : Fin 16) : Statement (.words pn) :=
  row 49 (by decide) rfl (by simp only [encode]; rw [opcode_wordR] <;> first | rfl | omega)

theorem wget (pd pi pj : Fin 16) : Statement (.wget pd pi pj) :=
  row 50 (by decide) rfl (by simp only [encode]; rw [opcode_wordR] <;> first | rfl | omega)

theorem wfill : Statement .wfill :=
  row 51 (by decide) rfl (by simp only [encode]; rw [opcode_wordR] <;> first | rfl | omega)

end Sys2Proof.Laws.Opcode
end

