-- ==== Sys2Proof/Laws/Walsh.lean ====
section
/-! SUPPORT. What the lookups of the Walsh generator do to a cell. -/

namespace Sys2Proof.Machine.State

open Sys2Proof

/-- A cell's place in the table. -/
theorem cell_touch_same (s : State) (i j : Nat) :
    (s.touch i j).cell i j = some ((s.cell i j).getD (walsh s.cfg.walshNeg s.WORD i j)) := by
  unfold touch
  split
  · rename_i v h
    simp [h]
  · rename_i h
    simp [cell] at h ⊢
    simp [h]

/-- A set cell keeps its value. -/
theorem cell_touch_of_set (s : State) {i j a b : Nat} {v : Sign} (h : s.cell a b = some v) :
    (s.touch i j).cell a b = some v := by
  unfold touch
  split
  · exact h
  · rename_i hn
    have ne : a * s.cfg.wDim + b ≠ i * s.cfg.wDim + j := by
      intro e
      unfold cell at h hn
      rw [e, hn] at h
      cases h
    simp only [cell] at h ⊢
    rw [Sparse.lookup_put_ne _ _ ne]
    exact h

@[simp] theorem touch_WORD (s : State) (i j : Nat) : (s.touch i j).WORD = s.WORD := by
  obtain ⟨wt, h⟩ := touch_frame s i j
  rw [h]

@[simp] theorem touch_cfg (s : State) (i j : Nat) : (s.touch i j).cfg = s.cfg := by
  obtain ⟨wt, h⟩ := touch_frame s i j
  rw [h]

/-- Any number of lookups writes the table alone. -/
theorem foldl_touch_frame {β : Type} (f : State → β → State) (hf : ∀ s b, ∃ wt, f s b = { s with WT := wt }) (l : List β)
    (s : State) : ∃ wt, l.foldl f s = { s with WT := wt } := by
  induction l generalizing s with
  | nil => exact ⟨s.WT, rfl⟩
  | cons b l ih =>
    obtain ⟨wt, h⟩ := hf s b
    obtain ⟨wt', h'⟩ := ih (f s b)
    exact ⟨wt', by rw [List.foldl_cons, h', h]⟩

theorem touchChain_frame (s : State) (i j : Nat) : ∃ wt, s.touchChain i j = { s with WT := wt } :=
  foldl_touch_frame _ (fun s _ => touch_frame s _ _) _ _

theorem touchAll_frame (s : State) : ∃ wt, s.touchAll = { s with WT := wt } :=
  foldl_touch_frame _ (fun _ _ => foldl_touch_frame _ (fun _ _ => touch_frame _ _ _) _ _) _ _

/-- A lookup keeps the table in order. -/
theorem touch_wf (s : State) {i j n : Nat} (h : Sparse.risingFrom 0 n s.WT = true) (hij : i * s.cfg.wDim + j < n) :
    Sparse.risingFrom 0 n (s.touch i j).WT = true := by
  unfold touch
  split
  · exact h
  · exact Sparse.risingFrom_put _ _ h (Nat.zero_le _) hij

end Sys2Proof.Machine.State
end

