-- ==== Sys2Proof/Tests/Slice0.lean ====
section
/-! SUPPORT. Tests: ill-formed terms refused, words decoded, one step of each command on the vectors of
95_test_vectors (named by their V numbers), and, for every statement with hypotheses, a state and operands that meet them
(`witness_...`). Every expected value is the spec's. -/

namespace Sys2Proof.Tests

-- One theorem is checked after the other: the kernel evaluates these, and a thread waiting for each would ask for a stack.
set_option Elab.async false

open Sys2Proof Sys2Proof.Machine

/-! ## Helpers -/

/-- A small whole number as a binary32 (`test_num` shows the patterns). -/
def num (n : Int) : F32 := if 0 ≤ n then F32.u2f n.toNat else F32.fneg (F32.u2f (-n).toNat)

def pt (re im : Int) : Cplx := ⟨num re, num im⟩

/-- A real signal of whole numbers as complex samples. -/
def pts (xs : List Int) : List Cplx := xs.map fun x => pt x 0

/-- A running machine with these registers and buffers; everything else as after reset. -/
def machine (ps : List Word) (zs : List Cplx) (rbs : List (List F32)) (cbs : List (List Cplx)) : State :=
  { State.reset with
    STATE := .run
    P := Vector.ofFn fun i => ps.getD i 0#32
    Z := Vector.ofFn fun i => zs.getD i Cplx.zero
    RB := Vector.ofFn fun r => { len := (rbs.getD r []).length, mem := { cells := Sparse.listed 0 (rbs.getD r []), draw := 0 } }
    CB := Vector.ofFn fun b =>
      { len := (cbs.getD b []).length, mem := { cells := Sparse.listed 0 (cplxWords (cbs.getD b [])), draw := 0 } } }

/-- A running machine whose banks have these lengths and unspecified samples. -/
def sized (ps : List Word) (rl cl : List Nat) : State :=
  { machine ps [] [] [] with
    RB := Vector.ofFn fun r => { len := rl.getD r 0, mem := { cells := [], draw := 0 } }
    CB := Vector.ofFn fun b => { len := cl.getD b 0, mem := { cells := [], draw := 0 } } }

/-- The state after one step that fetches this word. -/
def after (word : Nat) (s : State) : Option State :=
  match step (s.withFetchWord 32 word) with
  | .next t => some t
  | .fault _ => none
  | .refused _ => none

/-- What is recorded of the step's fault. -/
def raised (word : Nat) (s : State) : Option (RunState × Option Cause × Word × Nat) :=
  (after word s).map fun t => (t.STATE, t.FCAUSE, t.FINFO, t.pc)

theorem test_num : num 1 = 0x3F800000#32 ∧ num 2 = 0x40000000#32 ∧ num 3 = 0x40400000#32 ∧ num 10 = 0x41200000#32 ∧
    num (-2) = 0xC0000000#32 ∧ num (-5) = 0xC0A00000#32 ∧ num 0 = 0x00000000#32 := by decide +kernel

/-! ## WellFormed: an ill-formed term for each check -/

theorem test_bpedge_block : (Instr.bpedge 13 0 1 2 3).wellFormed = false ∧ (Instr.bpedge 12 0 1 2 3).wellFormed = true := by
  decide

theorem test_bpmask_block : (Instr.bpmask 0 15).wellFormed = false ∧ (Instr.bpmask 0 14).wellFormed = true := by decide

theorem test_resamp_block : (Instr.resamp 1 0 0 1 12).wellFormed = false ∧ (Instr.resamp 1 0 0 1 11).wellFormed = true := by
  decide

/-! ## Decode: a word of every command, written out from the row and the fields of 30_encoding R106 -/

theorem test_decode_sequencer :
    decode 0x01000000#32 = some (.nop) ∧
    decode 0x02000000#32 = some (.halt) ∧
    decode 0x03301234#32 = some (.setlo 3 0x1234#16) ∧
    decode 0x04F0FFFF#32 = some (.sethi 15 0xFFFF#16) ∧
    decode 0x05120000#32 = some (.movp 1 2) ∧
    decode 0x06130000#32 = some (.ccopy 1 3) ∧
    decode 0x07310000#32 = some (.rcopy 3 1) ∧
    decode 0x08290000#32 = some (.czero 2 9) ∧
    decode 0x091E0000#32 = some (.rzero 1 14) ∧
    decode 0x0A532000#32 = some (.rld 5 3 2) ∧
    decode 0x0B123000#32 = some (.rst 1 2 3) := by decide

theorem test_decode_complex_alu :
    decode 0x107AB000#32 = some (.zmk 7 10 11) ∧
    decode 0x11C50000#32 = some (.zre 12 5) ∧
    decode 0x12D60000#32 = some (.zim 13 6) ∧
    decode 0x13429000#32 = some (.zld 4 2 9) ∧
    decode 0x14387000#32 = some (.zst 3 8 7) ∧
    decode 0x15123000#32 = some (.zadd 1 2 3) ∧
    decode 0x16456000#32 = some (.zsub 4 5 6) ∧
    decode 0x17123000#32 = some (.zmul 1 2 3) ∧
    decode 0x18321000#32 = some (.zdiv 3 2 1) ∧
    decode 0x1910F000#32 = some (.zdivs 1 0 15) ∧
    decode 0x1A410000#32 = some (.zmag 4 1) ∧
    decode 0x1B170000#32 = some (.zphase 1 7) ∧
    decode 0x1C410000#32 = some (.znorm 4 1) ∧
    decode 0x1D760000#32 = some (.zisz 7 6) ∧
    decode 0x1E500000#32 = some (.zconj 5 0) := by decide

theorem test_decode_fft_engine :
    decode 0x20300000#32 = some (.bitrev 3) ∧
    decode 0x21110000#32 = some (.bfly 1 .inv) ∧
    decode 0x21200000#32 = some (.bfly 2 .fwd) ∧
    decode 0x22200000#32 = some (.fft 2) ∧
    decode 0x23100000#32 = some (.ifft 1) ∧
    decode 0x24112300#32 = some (.twid 1 .inv 2 3) := by decide

theorem test_decode_real_adapter :
    decode 0x30012000#32 = some (.lift 0 1 2) ∧
    decode 0x31012000#32 = some (.rfft 0 1 2) ∧
    decode 0x32012340#32 = some (.rfftg 0 1 2 3 4) ∧
    decode 0x33120000#32 = some (.realp 1 2) := by decide

theorem test_decode_bandpass :
    decode 0x40401230#32 = some (.bpedge 4 0 1 2 3) ∧
    decode 0x40C01230#32 = some (.bpedge 12 0 1 2 3) ∧
    decode 0x41140000#32 = some (.bpmask 1 4) ∧
    decode 0x42012300#32 = some (.bpf 0 1 2 3) := by decide

theorem test_decode_convolution :
    decode 0x50120000#32 = some (.cmulv 1 2) ∧
    decode 0x51012015#32 = some (.conv 0 1 2 0 1 5) := by decide

theorem test_decode_xcorr :
    decode 0x60100000#32 = some (.conjv 1) ∧
    decode 0x61200000#32 = some (.whiten 2) ∧
    decode 0x62201000#32 = some (.xcinit 2 0 1) ∧
    decode 0x63123000#32 = some (.xcorr 1 2 3) := by decide

theorem test_decode_resample :
    decode 0x70326000#32 = some (.zstuff 3 2 6) ∧
    decode 0x71239500#32 = some (.decim 2 3 9 5) ∧
    decode 0x72100140#32 = some (.resamp 1 0 0 1 4) := by decide

theorem test_decode_hilbert :
    decode 0x80100000#32 = some (.hrot 1) ∧
    decode 0x81012000#32 = some (.hilb 0 1 2) := by decide

theorem test_decode_walsh :
    decode 0x90300000#32 = some (.words 3) ∧
    decode 0x91012000#32 = some (.wget 0 1 2) ∧
    decode 0x92000000#32 = some (.wfill) := by decide

/-- V9 to V19 and 30_encoding R107 (a) to (e). -/
theorem test_decode_illegal :
    ([0x00000000#32, 0xFF000000#32, 0x0C000000#32, 0x01000001#32, 0x03010005#32, 0x15801000#32, 0x22400000#32,
      0x21020000#32, 0x40D01230#32, 0x410F0000#32, 0x721001C0#32].map decode) = List.replicate 11 none := by decide

/-! ## One step of each command -/

/-- R131, R132: `pc` 7 to 8; `HALT` keeps `pc`. -/
theorem test_nop_halt :
    ((after 0x01000000 { machine [] [] [] [] with pc := 7 }).map fun t => (t.STATE, t.pc)) = some (.run, 8) ∧
    ((after 0x02000000 { machine [] [] [] [] with pc := 5 }).map fun t => (t.STATE, t.pc)) = some (.halted, 5) := by decide +kernel

/-- V100. -/
theorem test_setlo :
    ((after 0x03300000 (machine [0#32, 0#32, 0#32, 0xFFFFFFFF#32] [] [] [])).map (·.getP 3)) = some 0x00000000#32 := by decide +kernel

/-- V101. -/
theorem test_sethi :
    ((after 0x0430DEAD (machine [0#32, 0#32, 0#32, 0x0000BEEF#32] [] [] [])).map (·.getP 3)) = some 0xDEADBEEF#32 := by decide +kernel

/-- V102. -/
theorem test_movp :
    ((after 0x05120000 (machine [0#32, 0#32, 0x7FC00001#32] [] [] [])).map (·.getP 1)) = some 0x7FC00001#32 := by decide +kernel

/-- V103. -/
theorem test_ccopy :
    ((after 0x06010000 (machine [] [] [] [List.replicate 5 (pt 9 9), [pt 1 2, pt 3 4]])).map (·.cplxBuf 0)) =
      some [pt 1 2, pt 3 4] := by decide +kernel

/-- R137. -/
theorem test_rcopy :
    ((after 0x07020000 (machine [] [] [[], [], [num 5]] [])).map (·.realBuf 0)) = some [num 5] := by decide +kernel

/-- R138, V106. -/
theorem test_czero :
    ((after 0x08010000 (machine [0#32, 4#32] [] [] [])).map (·.cplxBuf 0)) = some (pts [0, 0, 0, 0]) ∧
    raised 0x08000000 (machine [4097#32] [] [] []) = some (.fault, some .bounds, 0x00001001#32, 0) := by decide +kernel

/-- R139, V107. -/
theorem test_rzero :
    ((after 0x09210000 (machine [0#32, 3#32] [] [] [])).map (·.realBuf 2)) = some [num 0, num 0, num 0] ∧
    raised 0x09000000 (machine [0xFFFFFFFF#32] [] [] []) = some (.fault, some .bounds, 0xFFFFFFFF#32, 0) := by decide +kernel

/-- V109, V110. -/
theorem test_rld :
    ((after 0x0A100000 (machine [2#32] [] [[num 1, num 2, num 3]] [])).map (·.getP 1)) = some 0x40400000#32 ∧
    raised 0x0A100000 (machine [3#32] [] [[num 1, num 2, num 3]] []) = some (.fault, some .bounds, 3#32, 0) := by decide +kernel

/-- V112, V111. -/
theorem test_rst :
    ((after 0x0B001000 (machine [0#32, 0x80000000#32] [] [[num 1, num 2, num 3]] [])).map (·.realBuf 0)) =
      some [0x80000000#32, num 2, num 3] ∧
    raised 0x0B001000 (machine [3#32] [] [[num 1, num 2, num 3]] []) = some (.fault, some .bounds, 3#32, 0) := by decide +kernel

/-- V120. -/
theorem test_zmk :
    ((after 0x10012000 (machine [0#32, 0x3F800000#32, 0x40000000#32] [] [] [])).map (·.getZ 0)) = some (pt 1 2) := by decide +kernel

/-- R172, R173. -/
theorem test_zre_zim :
    ((after 0x11500000 (machine [] [pt 1 2] [] [])).map (·.getP 5)) = some (num 1) ∧
    ((after 0x12500000 (machine [] [pt 1 2] [] [])).map (·.getP 5)) = some (num 2) := by decide +kernel

/-- R174, V140. -/
theorem test_zld :
    ((after 0x13201000 (machine [0#32, 1#32] [] [] [[pt 1 2, pt 3 4]])).map (·.getZ 2)) = some (pt 3 4) ∧
    raised 0x13000000 (machine [] [] [] []) = some (.fault, some .bounds, 0#32, 0) := by decide +kernel

/-- R175, V139. -/
theorem test_zst :
    ((after 0x14002000 (machine [1#32] [pt 0 0, pt 0 0, pt 5 6] [] [[pt 1 2, pt 3 4]])).map (·.cplxBuf 0)) =
      some [pt 1 2, pt 5 6] ∧
    raised 0x14000000 (machine [1#32] [] [] [[pt 1 1]]) = some (.fault, some .bounds, 1#32, 0) := by decide +kernel

/-- V121. -/
theorem test_zadd_zsub :
    ((after 0x15201000 (machine [] [pt 1 2, pt 3 4] [] [])).map (·.getZ 2)) = some (pt 4 6) ∧
    ((after 0x16201000 (machine [] [pt 1 2, pt 3 4] [] [])).map (·.getZ 2)) = some (pt (-2) (-2)) := by decide +kernel

/-- V122. -/
theorem test_zmul :
    ((after 0x17201000 (machine [] [pt 1 2, pt 3 4] [] [])).map (·.getZ 2)) = some ⟨0xC0A00000#32, 0x41200000#32⟩ := by decide +kernel

/-- V124, V125. -/
theorem test_zdiv :
    ((after 0x18201000 (machine [] [pt 1 0, pt 3 0] [] [])).map (·.getZ 2)) = some ⟨0x3EAAAAAB#32, 0x00000000#32⟩ ∧
    raised 0x18201000 (machine [] [pt 1 1, ⟨0#32, 0x80000000#32⟩] [] []) = some (.fault, some .divZero, 1#32, 0) := by decide +kernel

/-- V127, V128. -/
theorem test_zdivs :
    ((after 0x19103000 (machine [0#32, 0#32, 0#32, 0x40800000#32] [pt 1 2] [] [])).map (·.getZ 1)) =
      some ⟨0x3E800000#32, 0x3F000000#32⟩ ∧
    raised 0x19103000 (machine [0#32, 0#32, 0#32, 0x80000000#32] [pt 1 1] [] []) = some (.fault, some .divZero, 3#32, 0) := by decide +kernel

/-- V131, V132. -/
theorem test_zmag :
    ((after 0x1A410000 (machine [] [pt 0 0, pt 1 1] [] [])).map (·.getP 4)) = some 0x3FB504F3#32 ∧
    ((after 0x1A410000 (machine [] [pt 0 0, ⟨0x7F61B1E6#32, 0x7F61B1E6#32⟩] [] [])).map (·.getP 4)) = some 0x7F800000#32 := by decide +kernel

/-- V141. -/
theorem test_zphase :
    ((after 0x1B100000 (machine [] [pt 0 1] [] [])).map (·.getP 1)) = some 0x3FC90FDB#32 := by decide +kernel

/-- V133, V135. -/
theorem test_znorm :
    ((after 0x1C410000 (machine [] [pt 0 0, pt 3 4] [] [])).map (·.getZ 4)) = some ⟨0x3F19999A#32, 0x3F4CCCCD#32⟩ ∧
    ((after 0x1C410000 (machine [] [pt 0 0, ⟨0x0DA24260#32, 0#32⟩] [] [])).map (·.getZ 4)) = some ⟨0x0DA24260#32, 0#32⟩ := by decide +kernel

/-- V138. -/
theorem test_zisz :
    ((after 0x1D760000 (machine [] [pt 0 0, pt 0 0, pt 0 0, pt 0 0, pt 0 0, pt 0 0, ⟨0x80000000#32, 0#32⟩] [] [])).map (·.getP 7)) = some 1#32 ∧
    ((after 0x1D760000 (machine [] [pt 0 0, pt 0 0, pt 0 0, pt 0 0, pt 0 0, pt 0 0, ⟨0x00000001#32, 0#32⟩] [] [])).map (·.getP 7)) = some 0#32 := by decide +kernel

/-- V137. -/
theorem test_zconj :
    ((after 0x1E500000 (machine [] [pt 1 0] [] [])).map (·.getZ 5)) = some ⟨0x3F800000#32, 0x80000000#32⟩ := by decide +kernel

/-- E1. -/
theorem test_bitrev :
    ((after 0x20000000 (machine [] [] [] [pts [0, 1, 2, 3, 4, 5, 6, 7]])).map (·.cplxBuf 0)) =
      some (pts [0, 4, 2, 6, 1, 5, 3, 7]) := by decide +kernel

/-- V24, V25. -/
theorem test_bfly :
    ((after 0x21000000 (machine [] [] [] [[⟨0x80000000#32, 0#32⟩, pt 0 0]])).map (·.cplxBuf 0)) =
      some [⟨0x80000000#32, 0#32⟩, ⟨0x80000000#32, 0#32⟩] ∧
    ((after 0x21000000 (machine [] [] [] [pts [1, -1]])).map (·.cplxBuf 0)) = some (pts [0, 2]) := by decide +kernel

/-- V22, V27. -/
theorem test_fft :
    ((after 0x22000000 (machine [] [] [] [pts [1, 2, 3, 4, 5, 6, 7, 8]])).map (·.cplxBuf 0)) =
      some [pt 36 0, ⟨0xC0800000#32, 0x411A827A#32⟩, pt (-4) 4, ⟨0xC0800000#32, 0x3FD413CC#32⟩, pt (-4) 0,
        ⟨0xC0800000#32, 0xBFD413CC#32⟩, pt (-4) (-4), ⟨0xC0800000#32, 0xC11A827A#32⟩] ∧
    raised 0x22000000 (sized [] [] [12]) = some (.fault, some .notPow2, 12#32, 0) := by decide +kernel

/-- V20. -/
theorem test_ifft :
    ((after 0x23000000 (machine [] [] [] [[pt 10 0, pt (-2) 2, pt (-2) 0, pt (-2) (-2)]])).map (·.cplxBuf 0)) =
      some (pts [1, 2, 3, 4]) := by decide +kernel

/-- V28, V29. -/
theorem test_twid :
    ((after 0x24110100 (machine [8#32, 11#32] [] [] [])).map (·.getZ 1)) = some ⟨0xBF3504F3#32, 0x3F3504F3#32⟩ ∧
    raised 0x24000100 (machine [8192#32] [] [] []) = some (.fault, some .bounds, 0x2000#32, 0) := by decide +kernel

/-- V30, V38. -/
theorem test_lift :
    ((after 0x30000000 (machine [4#32] [] [[num 1, num 2, num 3]] [])).map (·.cplxBuf 0)) = some (pts [1, 2, 3, 0]) ∧
    raised 0x30000000 (sized [4#32] [5] []) = some (.fault, some .bounds, 5#32, 0) := by decide +kernel

/-- V31, V39. -/
theorem test_rfft :
    ((after 0x31000000 (machine [4#32] [] [[num 1, num 2, num 3]] [])).map (·.cplxBuf 0)) =
      some [pt 6 0, pt (-2) (-2), pt 2 0, pt (-2) 2] ∧
    raised 0x31000000 (sized [8192#32] [1] []) = some (.fault, some .bounds, 0x2000#32, 0) := by decide +kernel

/-- V34, V152. -/
theorem test_rfftg :
    ((after 0x32001010 (machine [2#32, 4#32] [] [[num 1, num 2, num 3, num 4, num 5, num 6, num 7, num 8]] [])).map fun t => (t.cplxBuf 0, t.cplxBuf 1)) =
      some ([pt 36 0, ⟨0xC0800000#32, 0x411A827A#32⟩, pt (-4) 4, ⟨0xC0800000#32, 0x3FD413CC#32⟩, pt (-4) 0,
        ⟨0xC0800000#32, 0xBFD413CC#32⟩, pt (-4) (-4), ⟨0xC0800000#32, 0xC11A827A#32⟩],
        pts [6, -4, 8, -4, 10, -4, 12, -4]) ∧
    raised 0x32001010 (sized [4096#32, 2#32] [] []) = some (.fault, some .bounds, 0x2000#32, 0) := by decide +kernel

/-- V36. -/
theorem test_realp :
    ((after 0x33000000 (machine [] [] [] [[pt 1 9, pt 2 8]])).map (·.realBuf 0)) = some [num 1, num 2] := by decide +kernel

/-- V40, V161. -/
theorem test_bpedge :
    ((after 0x40401230 (machine [16#32, 0x41800000#32, 0x40200000#32, 0x40000000#32] [] [] [])).map
        fun t => [t.getP 4, t.getP 5, t.getP 6, t.getP 7]) = some [1#32, 3#32, 12#32, 14#32] ∧
    raised 0x40401230 (machine [16#32, 0x41800000#32, 0x40F00000#32, 0x40000000#32] [] [] []) =
      some (.fault, some .bpNyquist, 8#32, 0) := by decide +kernel

/-- V42, V45. -/
theorem test_bpmask :
    ((after 0x41040000 (machine [0#32, 0#32, 0#32, 0#32, 2#32, 3#32] [] [] [(List.range 16).map fun k => pt (k + 1) (-(k + 1))])).map
        (·.cplxBuf 0)) =
      some ((List.range 16).map fun k => if k ∈ [2, 3, 12, 13] then pt (k + 1) (-(k + 1)) else pt 0 0) ∧
    raised 0x41040000 (sized [0#32, 0#32, 0#32, 0#32, 4#32, 3#32] [] [16]) = some (.fault, some .param, 4#32, 0) := by decide +kernel

/-- V43, V48. -/
theorem test_bpf :
    ((after 0x42012300 (machine [0#32, 0x41800000#32, 0x40200000#32, 0x40000000#32] [] [] [(List.range 16).map fun k => pt (k + 1) 1])).map
        (·.cplxBuf 0)) =
      some ((List.range 16).map fun k => if k ∈ [1, 2, 3, 12, 13, 14] then pt (k + 1) 1 else pt 0 0) ∧
    raised 0x42012300 (sized [] [] [12]) = some (.fault, some .notPow2, 12#32, 0) := by decide +kernel

/-- V50, V51. -/
theorem test_cmulv :
    ((after 0x50010000 (machine [] [] [] [[pt 1 2, pt 0 1], [pt 3 4, pt 0 1]])).map (·.cplxBuf 0)) =
      some [pt (-5) 10, pt (-1) 0] ∧
    raised 0x50010000 (sized [] [] [2, 3]) = some (.fault, some .lenMismatch, 3#32, 0) := by decide +kernel

/-- V52, V58. -/
theorem test_conv :
    ((after 0x51201010 (machine [4#32] [] [[num 1, num 2], [num 3, num 4]] [])).map
        fun t => (t.realBuf 2, t.cplxBuf 0, t.cplxBuf 1)) =
      some ([num 3, num 10, num 8, num 0], pts [3, 10, 8, 0], [pt 7 0, pt 3 (-4), pt (-1) 0, pt 3 4]) ∧
    ((after 0x51000010 (machine [4#32] [] [[num 1, num 1]] [])).map (·.realBuf 0)) = some [num 1, num 2, num 1, num 0] := by decide +kernel

/-- V67. -/
theorem test_conjv :
    ((after 0x60000000 (machine [] [] [] [[pt 1 2, pt 3 0]])).map (·.cplxBuf 0)) =
      some [pt 1 (-2), ⟨0x40400000#32, 0x80000000#32⟩] := by decide +kernel

/-- V66. -/
theorem test_whiten :
    ((after 0x61000000 (machine [] [] [] [[pt 3 4, pt 0 0, pt 0 (-2)]])).map (·.cplxBuf 0)) =
      some [⟨0x3F19999A#32, 0x3F4CCCCD#32⟩, pt 0 0, pt 0 (-1)] := by decide +kernel

/-- V60, V62. -/
theorem test_xcinit :
    ((after 0x62201000 (machine [0#32, 4#32] [] [[num 1]] [])).map (·.cplxBuf 2)) =
      some (List.replicate 4 ⟨0x3F800000#32, 0x80000000#32⟩) ∧
    ((after 0x62200000 (machine [8#32] [] [[num 1, num 2]] [])).map (·.cplxBuf 2)) =
      some [⟨0x40400000#32, 0x80000000#32⟩, ⟨0x401A827A#32, 0x3FB504F3#32⟩, pt 1 2, ⟨0xBED413CC#32, 0x3FB504F3#32⟩,
        ⟨0xBF800000#32, 0x80000000#32⟩, ⟨0xBED413CC#32, 0xBFB504F3#32⟩, pt 1 (-2), ⟨0x401A827A#32, 0xBFB504F3#32⟩] := by decide +kernel

/-- V61, V63. -/
theorem test_xcorr :
    ((after 0x63120000 (machine [] [] [[], [num 0, num 2, num 0, num 0]] [[], [], List.replicate 4 ⟨0x3F800000#32, 0x80000000#32⟩])).map
        fun t => (t.realBuf 1, t.cplxBuf 0)) =
      some ([num 0, num 1, num 0, num 0], pts [0, 1, 0, 0]) ∧
    ((after 0x63123000 (machine [] [] [[], [num 0, num 0, num 0, num 3, num 6, num 0, num 0, num 0]] [[], [],
        [⟨0x40400000#32, 0x80000000#32⟩, ⟨0x401A827A#32, 0x3FB504F3#32⟩, pt 1 2,
        ⟨0xBED413CC#32, 0x3FB504F3#32⟩, ⟨0xBF800000#32, 0x80000000#32⟩, ⟨0xBED413CC#32, 0xBFB504F3#32⟩, pt 1 (-2),
        ⟨0x401A827A#32, 0xBFB504F3#32⟩]])).map (·.realBuf 1)) =
      some [0x3C8232A0#32, 0xBD71BBD0#32, 0x3EF7DCD3#32, 0x40081F3D#32, 0x3EF7DCD6#32, 0xBD71BBD0#32, 0x3C8232D0#32,
        0xBC115F00#32] := by decide +kernel

/-- V70, V182. -/
theorem test_zstuff :
    ((after 0x70010000 (machine [2#32] [] [] [[], pts [1, 2, 3, 4]])).map (·.cplxBuf 0)) =
      some (pts [1, 2, 0, 0, 0, 0, 3, 4]) ∧
    raised 0x70010000 (sized [2#32] [] [0, 1]) = some (.fault, some .param, 1#32, 0) := by decide +kernel

/-- V71, V184. -/
theorem test_decim :
    ((after 0x71001200 (machine [0#32, 3#32, 4#32] [] [] [pts [0, 1, 2, 3, 4, 5, 6, 7]])).map (·.realBuf 0)) =
      some [num 0, num 3, num 6, num 0] ∧
    raised 0x71001200 (machine [] [] [] []) = some (.fault, some .param, 0#32, 0) := by decide +kernel

/-- V72, V74. -/
theorem test_resamp :
    ((after 0x72100140 (machine [0#32, 0#32, 0#32, 0#32, 4#32, 8#32, 2#32, 0x40800000#32, 0x41000000#32] [] [[num 0, num 1, num 0, num (-1)]] [])).map
        fun t => (t.realBuf 1, t.cplxBuf 0)) =
      some ([num 0, 0x3EB504F3#32, 0x3F000000#32, 0x3EB504F3#32, num 0, 0xBEB504F3#32, 0xBF000000#32, 0xBEB504F3#32],
        [pt 0 0, pt 0 (-2), pt 0 0, pt 0 2]) ∧
    raised 0x72100140 (sized [0#32, 0#32, 0#32, 0#32, 4#32, 8#32, 2#32, 0x40800000#32, 0x42000000#32] [4] []) =
      some (.fault, some .param, 0x3E800000#32, 0) := by decide +kernel

/-- V80. -/
theorem test_hrot :
    ((after 0x80000000 (machine [] [] [] [(List.range 8).map fun k => pt k (10 * k)])).map (·.cplxBuf 0)) =
      some [pt 0 0, pt 10 (-1), pt 20 (-2), pt 30 (-3), pt (-40) 4, pt (-50) 5, pt (-60) 6, pt (-70) 7] := by decide +kernel

/-- V82, V84. -/
theorem test_hilb :
    ((after 0x81000000 (machine [4#32] [] [[num 1, num 0, num (-1)]] [])).map (·.cplxBuf 0)) =
      some [pt 1 0, pt 0 1, pt (-1) 0] ∧
    raised 0x81000000 (sized [4#32] [5] []) = some (.fault, some .bounds, 5#32, 0) := by decide +kernel

/-- V90, V94. -/
theorem test_words :
    ((after 0x90000000 (machine [3#32] [] [] [])).map fun t => (t.WORD, t.WT, t.wfull)) = some (3, [], false) ∧
    raised 0x90000000 (machine [8#32] [] [] []) = some (.fault, some .param, 8#32, 0) := by decide +kernel

/-- V92, V96. -/
theorem test_wget :
    ((after 0x91012000 (((machine [0#32, 1#32, 3#32] [] [] []) : State) |> fun s => { s with WORD := 3 })).map
        fun t => (t.getP 0, t.WT)) =
      some (0xFFFFFFFF#32, [(0, .pos), (65, .neg), (67, .neg)]) ∧
    raised 0x91012000 { machine [0#32, 4#32, 9#32] [] [] [] with WORD := 3 } = some (.fault, some .bounds, 4#32, 0) := by decide +kernel

/-- V93, V95. -/
theorem test_wfill :
    ((after 0x92000000 { machine [] [] [] [] with WORD := 3 }).map fun t =>
        (t.wfull, t.WT.length, [t.cell 1 1, t.cell 2 1, t.cell 3 3, t.cell 0 4])) =
      some (true, 16, [some .neg, some .pos, some .pos, none]) ∧
    raised 0x92000000 (machine [] [] [] []) = some (.fault, some .walshState, 0#32, 0) := by decide +kernel

/-- V113, program J: `FPC = 8` past the last command; an illegal word. -/
theorem test_fetch :
    ((fun s : State => match step { s with pc := 8 } with
        | .next t => some (t.STATE, t.FCAUSE, t.FPC, t.FINFO)
        | .fault _ => none
        | .refused _ => none)
      { machine [] [] [] [] with cfg := { Config.Params.suggested with logCmd := 3 } }) =
      some (.fault, some .pcRange, 8, 8#32) ∧
    raised 0x22400000 { machine [] [] [] [] with pc := 1 } = some (.fault, some .illegalCmd, 0x22400000#32, 1) := by decide +kernel

/-- V201, V202, V203, V207. -/
theorem test_host :
    (fun s : State => ((s.writeCtrl 0x00000001#32).STATE, (s.writeCtrl 0x00000003#32).STATE,
        (s.writeCtrl 0x00000003#32).FCAUSE)) ((machine [] [] [] []).takeFault .bounds 3) = (.fault, .run, none) ∧
    ({ State.reset with STATE := .halted, IE := true } : State).hostWord .status = 0x00000006#32 ∧
    ((sized [] [3] []).writeHostWord 4097#32 (.rlen 0)).hostWord (.rlen 0) = 3#32 := by decide +kernel
/-! ## Witnesses: a state and operands that meet the hypotheses of each statement, each clause at a boundary value -/

/-- A machine whose next turn is this host move. -/
def hosted (st : RunState) (m : HostMove) : State := { machine [] [] [] [] with STATE := st, host := [.move m] }

/-- `Mem` with one word known. -/
def oneWord (i : Nat) (w : Word) : Mem := { cells := [(i, w)], draw := 0 }

theorem witness_ResetValues : (machine [5#32] [pt 1 2] [] []).getP 0 = 5#32 ∧
    ((machine [5#32] [pt 1 2] [] []).restart false).getP 0 = 0#32 ∧ State.reset = State.resetWith State.reset.cfg := by
  decide

theorem witness_ResetSources :
    (hosted .run .resetInput).host = .move .resetInput :: [] ∧
    (hosted .run (.write 0 0x0000000C#32)).host = .move (.write 0 0x0000000C#32) :: [] ∧
    (0x0000000C#32).getLsbD 2 = true := by decide

/-- `SRST`; `CLRF` and `START` in `FAULT`; `START` alone in `IDLE`; `CLRF` alone in `HALTED`; none of them. -/
theorem witness_ControlWrite :
    (0x00000004#32).getLsbD 2 = true ∧ (0x00000003#32).getLsbD 2 = false ∧
    (hosted .fault (.write 0 0x00000003#32)).STATE = .fault ∧ (0x00000003#32).getLsbD 1 = true ∧
    (0x00000003#32).getLsbD 0 = true ∧ (hosted .idle (.write 0 0x00000001#32)).STATE = .idle ∧
    (0x00000001#32).getLsbD 0 = true ∧ (0x00000001#32).getLsbD 1 = false ∧
    (hosted .halted (.write 0 0x00000002#32)).STATE = .halted ∧ (0x00000002#32).getLsbD 0 = false ∧
    (hosted .run (.write 0 0x00000008#32)).STATE = .run := by decide

theorem witness_InvariantAtReset :
    ({ Config.Params.suggested with logCap := 3, logCmd := 4, wLogDim := 0 } : Config.Params).wf = true ∧
    ({ Config.Params.suggested with logCap := 24, logCmd := 16, wLogDim := 12 } : Config.Params).wf = true := by decide

/-- The last command of the memory, and an engine's turn listed. -/
theorem witness_StepRunsDecodedCommand :
    (fun s : State => s.host = [] ∧ s.STATE = .run ∧ s.pc < s.cfg.cmdCap ∧ decode (s.readCM s.pc) = some .nop)
      { machine [] [] [] [] with pc := 255, CM := oneWord 255 0x01000000#32 } ∧
    (fun s : State => s.host = .engine :: [] ∧ s.STATE = .run ∧ s.pc < s.cfg.cmdCap ∧
      decode (s.readCM s.pc) = some .nop)
      { machine [] [] [] [] with CM := oneWord 0 0x01000000#32, host := [.engine] } ∧
    State.reset.host = [] ∧ State.reset.STATE ≠ .run := by decide

theorem witness_FetchFaults :
    (fun s : State => s.host = [] ∧ s.STATE = .run ∧ s.cfg.cmdCap ≤ s.pc) { machine [] [] [] [] with pc := 256 } ∧
    (fun s : State => s.host = [] ∧ s.STATE = .run ∧ s.pc < s.cfg.cmdCap ∧ decode (s.readCM s.pc) = none)
      { machine [] [] [] [] with pc := 255, CM := oneWord 255 0x22400000#32 } := by decide

theorem witness_FaultEntry : ({ machine [] [] [] [] with IE := true } : State).IE = true := by decide

theorem witness_InterruptLevel :
    (0x00000002#32).getLsbD 2 = false ∧ (0x00000002#32).getLsbD 1 = true ∧ (0x00000009#32).getLsbD 2 = false ∧
    (0x00000009#32).getLsbD 0 = true ∧ (hosted .halted .resetInput).STATE ≠ .fault ∧
    (0x00000000#32).getLsbD 2 = false ∧ (0x00000000#32).getLsbD 3 = false := by decide

theorem witness_HostAccessByState :
    (hosted .run (.read 0x0009)).STATE = .run ∧ (hosted .run (.read 0x0009)).host = .move (.read 0x0009) :: [] ∧
    (hosted .run (.write 0x0010 5#32)).host = .move (.write 0x0010 5#32) :: [] ∧ 0x0010 < 2 ^ 30 ∧ 0x0010 ≠ 0x0000 ∧
    (hosted .halted (.read 0x3FFFFFFF)).STATE ≠ .run ∧ 0x3FFFFFFF < 2 ^ 30 := by decide

theorem witness_ControlRegisters : State.reset.cfg.wf = true ∧ 0x0001 ≤ 0x0009 ∧ 0x0009 ≤ 0x0009 ∧
    ∀ k, k < 4 → (0x00000010#32).getLsbD k = (0xFFFFFFF0#32).getLsbD k := by decide

theorem witness_HostMap :
    Config.Params.suggested.wf = true ∧ 255 < Config.Params.suggested.cmdCap ∧ 4095 < Config.Params.suggested.cap ∧
    63 < Config.Params.suggested.wDim ∧ 0x3FFFFFFF < 2 ^ 30 ∧
    HostWord.reserved ∈ [HostWord.status, .pcr, .fcause, .fpc, .finfo, .wordr, .id, .capr, .rev, .reserved] ∧
    HostWord.cm 255 ≠ HostWord.cm 254 ∧ (4096#32).toNat ≤ State.reset.cap ∧ State.reset.cap < (4097#32).toNat ∧
    (fun s : State => 1 < s.rlen 0 ∧ 1 < (2#32).toNat ∧ 1 < s.clen 0) (sized [] [3] [2]) := by
  decide

theorem witness_ByteAccess : ¬ (2 = 4 ∧ 8 % 4 = 0) ∧ ¬ (4 = 4 ∧ 6 % 4 = 0) ∧
    ¬ ([0x00#8].length = 4 ∧ 8 % 4 = 0) ∧ ¬ ([0x00#8, 0x00#8, 0x00#8, 0x00#8].length = 4 ∧ 5 % 4 = 0) := by decide

theorem witness_DecodeEncode : (Instr.resamp 3 3 3 3 11).wellFormed = true ∧ (Instr.bpedge 12 15 15 15 15).wellFormed = true ∧
    (Instr.setlo 15 0xFFFF#16).wellFormed = true := by decide

theorem witness_DecodeSound : decode 0x723333B0#32 = some (.resamp 3 3 3 3 11) := by decide

theorem witness_DecoderIsTheTable : decode 0x92000000#32 = some .wfill ∧ (∃ row ∈ opcodeTable, row.matches 0x92000000#32 = true) ∧
    decode 0x93000000#32 = none := by decide

theorem witness_SequencerAndScalars :
    (0x01000001#32).extractLsb' 24 8 = 0x01#8 ∧ 0x01000001#32 ≠ 0x01000000#32 ∧
    ({ State.reset with STATE := .halted, pc := 5 } : State).STATE = .halted ∧ (0x00000001#32).getLsbD 2 = false ∧
    (0x00000001#32).getLsbD 0 = true := by decide

theorem witness_BankCopies : (3 : Fin 4) ≠ 0 := by decide

theorem witness_BankZeroes : (sized [4096#32] [] []).idx 0 ≤ (sized [4096#32] [] []).cap ∧
    (sized [4097#32] [] []).cap < (sized [4097#32] [] []).idx 0 := by decide

theorem witness_RealElements : (sized [2#32] [3] []).idx 0 < (sized [2#32] [3] []).rlen 0 ∧
    (sized [3#32] [3] []).rlen 0 ≤ (sized [3#32] [3] []).idx 0 := by decide

theorem witness_ComplexElements : (sized [2#32] [] [3]).idx 0 < (sized [2#32] [] [3]).clen 0 ∧
    (sized [3#32] [] [3]).clen 0 ≤ (sized [3#32] [] [3]).idx 0 := by decide

theorem witness_Phase :
    F32.flt 0x00000000#32 0x00000001#32 = true ∧ F32.flt 0x80000001#32 0x00000000#32 = true ∧
    F32.isNaN 0x7FC00000#32 = true ∧ F32.isNaN 0xFF800000#32 = false ∧ F32.isNaN 0x80000000#32 = false ∧
    (F32.feq0 0xFF800000#32 && F32.feq0 0x80000000#32) = false := by decide +kernel

/-- `d` is 25; `d` underflows to `+0` (V126); a scalar 4, a scalar `-0`. -/
theorem witness_ComplexDivision :
    F32.feq0 (F32.fadd (F32.fmul (num 3) (num 3)) (F32.fmul (num 4) (num 4))) = false ∧
    F32.feq0 (F32.fadd (F32.fmul 0x0DA24260#32 0x0DA24260#32) (F32.fmul 0x00000000#32 0x00000000#32)) = true ∧
    F32.feq0 (num 4) = false ∧ F32.feq0 0x80000000#32 = true := by decide +kernel

theorem witness_ProductCommutes :
    F32.isNaN (cmul (pt 1 2) (pt 3 4)).re = false ∧ F32.isNaN (cmul (pt 1 2) (pt 3 4)).im = false := by decide +kernel

theorem witness_TransformsInPlace : ispow2 ((sized [] [] [1]).clen 0) = true ∧ ispow2 ((sized [] [] [4096]).clen 0) = true ∧
    ispow2 ((sized [] [] [0]).clen 0) = false ∧ ispow2 ((sized [] [] [12]).clen 0) = false := by decide +kernel

theorem witness_TwiddleRead :
    (fun s : State => ispow2 (s.idx 0) = true ∧ s.idx 0 ≤ s.cap) (sized [4096#32] [] []) ∧
    ispow2 ((sized [0#32] [] []).idx 0) = false ∧
    (fun s : State => ispow2 (s.idx 0) = true ∧ s.cap < s.idx 0) (sized [8192#32] [] []) := by decide +kernel

theorem witness_BitReversal : 2 < 3 ∧ ispow2 (pts [0, 1, 2, 3, 4, 5, 6, 7]).length = true ∧
    7 < (pts [0, 1, 2, 3, 4, 5, 6, 7]).length := by decide +kernel

theorem witness_StagesInPlace : ispow2 [pt 1 2].length = true ∧ ispow2 (pts [1, 2, 3, 4]).length = true := by decide +kernel

theorem witness_TwiddleProperties : ispow2 1 = true ∧ ispow2 4 = true ∧ 4 ≤ 4 ∧ ispow2 16777216 = true := by decide +kernel

theorem witness_LiftAndTransform :
    (fun s : State => ispow2 (s.idx 0) = true ∧ s.idx 0 ≤ s.cap ∧ s.rlen 0 ≤ s.idx 0) (sized [4096#32] [4096] []) ∧
    (fun s : State => ispow2 (s.idx 0) = true ∧ s.idx 0 ≤ s.cap ∧ ¬ s.rlen 0 ≤ s.idx 0) (sized [4#32] [5] []) := by
  decide +kernel

theorem witness_GroupedTransform :
    (fun s : State => (0 : Fin 4) ≠ 1 ∧ ispow2 (s.idx 0) = true ∧ ispow2 (s.idx 1) = true ∧ s.idx 0 * s.idx 1 ≤ s.cap ∧
      s.rlen 0 ≤ s.idx 0 * s.idx 1) (sized [4#32, 2#32] [8] []) ∧
    (fun s : State => ¬ s.idx 0 * s.idx 1 ≤ s.cap) (sized [4096#32, 2#32] [] []) ∧ 1 < 2 ∧ 3 < 4 := by decide +kernel

/-- V40; V161, V163, V160; `P[12 .. 15]`. -/
theorem witness_BandEdges :
    bpedge 16 0x41800000#32 0x40200000#32 0x40000000#32 = .ok (1, 3) ∧
    bpedge 16 0x41800000#32 0x40F00000#32 0x40000000#32 = .error (.bpNyquist, 8) ∧
    bpedge 16 0x41800000#32 0x3F000000#32 0x40000000#32 = .error (.param, 0xBF000000) ∧
    bpedge 16 0x41800000#32 0x40200000#32 0x3FC00000#32 = .error (.bpWidth, 0x3FC00000) ∧
    (12 : Fin 16).val ≤ 12 ∧ ispow2 16 = true ∧ 16 ≤ State.reset.cap ∧ ispow2 12 = false ∧ ispow2 8192 = true ∧
    State.reset.cap < 8192 := by decide +kernel

/-- V41. -/
theorem witness_BandEdgesOrdered : ispow2 4096 = true ∧ 4096 ≤ 2 ^ 24 ∧
    bpedge 4096 0x473B8000#32 0x463B8000#32 0x457A0000#32 = .ok (853, 1194) := by decide +kernel

/-- The last passband bin is `N/2 - 1`; V44, V45. -/
theorem witness_BandMask :
    (14 : Fin 16).val + 1 < 16 ∧
    (fun s : State => ispow2 (s.clen 0) = true ∧ (s.getP 1).toNat < s.clen 0 / 2 ∧ (s.getP 0).toNat ≤ (s.getP 1).toNat)
      (sized [7#32, 7#32] [] [16]) ∧
    (fun s : State => ¬ (s.getP 1).toNat < s.clen 0 / 2) (sized [2#32, 8#32] [] [16]) ∧
    (fun s : State => ispow2 (s.clen 0) = true ∧
      bpedge (s.clen 0) (s.getP 1) (s.getP 2) (s.getP 3) = .ok (1, 3))
      (sized [0#32, 0x41800000#32, 0x40200000#32, 0x40000000#32] [] [16]) ∧
    (fun s : State => ispow2 (s.clen 0) = true ∧
      bpedge (s.clen 0) (s.getP 1) (s.getP 2) (s.getP 3) = .error (.bpWidth, 0x3FC00000))
      (sized [0#32, 0x41800000#32, 0x40200000#32, 0x3FC00000#32] [] [16]) ∧
    ispow2 ((sized [] [] [12]).clen 0) = false := by decide +kernel

theorem witness_SpectralProducts :
    (fun s : State => s.clen 1 = s.clen 0) (sized [] [] [3, 3]) ∧ (fun s : State => s.clen 1 ≠ s.clen 0) (sized [] [] [2, 3]) ∧
    (fun s : State => (0 : Fin 4) ≠ 1 ∧ ispow2 (s.idx 0) = true ∧ s.idx 0 ≤ s.cap ∧ s.rlen 0 ≤ s.idx 0 ∧
      s.rlen 1 ≤ s.idx 0) (sized [4096#32] [4096, 0] []) ∧
    (fun s : State => ¬ s.rlen 1 ≤ s.idx 0) (sized [4#32] [4, 5] []) := by decide +kernel

theorem witness_Correlation :
    (fun s : State => ispow2 (s.idx 0) = true ∧ s.idx 0 ≤ s.cap ∧ s.rlen 0 ≤ s.idx 0) (sized [8#32] [8] []) ∧
    ispow2 ((sized [5#32] [] []).idx 0) = false ∧
    (fun s : State => (3 : Fin 4) ≠ 2 ∧ ispow2 (s.clen 2) = true ∧ s.rlen 1 = s.clen 2) (sized [] [0, 4] [0, 0, 4]) ∧
    (fun s : State => ispow2 (s.clen 2) = true ∧ ¬ s.rlen 1 = s.clen 2) (sized [] [0, 3] [0, 0, 4]) := by decide +kernel

/-- V70 at the capacity, V183, V182; V184, V185; V72, V76, V74, V75. -/
theorem witness_Resampling :
    (fun s : State => (0 : Fin 4) ≠ 1 ∧ ispow2 (s.clen 1) = true ∧ ispow2 (s.idx 0) = true ∧ s.idx 0 * s.clen 1 ≤ s.cap ∧
      2 ≤ s.clen 1) (sized [2048#32] [] [0, 2]) ∧
    (fun s : State => ¬ s.idx 0 * s.clen 1 ≤ s.cap) (sized [2048#32] [] [0, 4]) ∧
    (fun s : State => ¬ 2 ≤ s.clen 1) (sized [2#32] [] [0, 1]) ∧
    (fun s : State => s.idx 1 ≤ s.cap ∧ s.idx 0 ≠ 0) (sized [1#32, 4096#32] [] []) ∧
    (fun s : State => ¬ (s.idx 1 ≤ s.cap ∧ s.idx 0 ≠ 0)) (sized [0#32, 4#32] [] []) ∧ (11 : Fin 16).val + 4 < 16 ∧
    (fun s : State => ispow2 (s.getP 4).toNat = true ∧ ispow2 (s.getP 6).toNat = true ∧
      (s.getP 6).toNat * (s.getP 4).toNat ≤ s.cap ∧ s.rlen 0 ≤ (s.getP 4).toNat ∧ (s.getP 5).toNat ≤ s.cap ∧
      2 ≤ (s.getP 4).toNat ∧
      F32.f2iRound (F32.fdiv (F32.fmul (s.getP 7) (F32.u2f (s.getP 6).toNat)) (s.getP 8)) = some 1)
      (sized [0#32, 0#32, 0#32, 0#32, 4#32, 8#32, 2#32, 0x40800000#32, 0x41000000#32] [4] []) ∧
    F32.f2iRound (F32.fdiv (F32.fmul 0x40800000#32 (F32.u2f 2)) 0x42000000#32) = some 0 ∧
    F32.f2iRound (F32.fdiv (F32.fmul 0x40800000#32 (F32.u2f 2)) 0x00000000#32) = none := by decide +kernel

theorem witness_Quadrature : ispow2 ((sized [] [] [1]).clen 0) = true ∧ ispow2 ((sized [] [] [3]).clen 0) = false ∧
    (fun s : State => ispow2 (s.idx 0) = true ∧ s.idx 0 ≤ s.cap ∧ s.rlen 0 ≤ s.idx 0) (sized [4#32] [4] []) ∧
    (fun s : State => ¬ s.rlen 0 ≤ s.idx 0) (sized [4#32] [5] []) := by decide +kernel

theorem witness_SampleFormulas :
    [num 1, num 2].length ≤ 2 ∧ 1 < 2 ∧ 0 ≤ 0 ∧ 1 < (pts [1, 2, 3, 4]).length / 2 ∧ 3 < (pts [1, 2, 3, 4]).length ∧
    ispow2 (pts [1, 2]).length = true ∧ 2 ≤ (pts [1, 2]).length ∧ 1 ≤ 1 ∧ 3 < 2 * (pts [1, 2]).length := by decide +kernel

theorem witness_HilbertRotations : ispow2 (pts [1]).length = true ∧ ispow2 (pts [1, 2, 3, 4]).length = true ∧
    2 < (pts [1, 2, 3, 4]).length := by decide +kernel

theorem wt_cell_of_origin {s : State} (h : s.WT = [(0, .pos)]) (hw : s.WORD = 3) (hc : s.cfg = Config.Params.suggested) :
    ∀ c ∈ s.WT, s.WORD ≠ 0 ∧ ∃ i j, i < s.walshDim ∧ j < s.walshDim ∧
      c = (i * s.cfg.wDim + j, walsh s.cfg.walshNeg s.WORD i j) := by
  intro c hm
  rw [h, List.mem_singleton] at hm
  subst hm
  refine ⟨by omega, 0, 0, ?_, ?_, ?_⟩ <;> simp only [State.walshDim, hw, hc] <;> decide

/-- An order set, one cell looked up, registers and buffers loaded. -/
def walshMachine : State :=
  { machine [1#32, 3#32, 7#32] [] [[num 1, num 2]] [[pt 1 2]] with
    WORD := 3
    WT := [(0, .pos)]
    CM := oneWord 0 0x01000000#32 }

theorem witness_Inv : walshMachine.Inv where
  cfg_wf := by decide
  pc_le := by decide
  rlen_le := by decide
  clen_le := by decide
  rb_wf := by decide
  cb_wf := by decide
  cm_wf := by decide
  word_le := by decide
  wt_wf := by decide
  wt_cell := wt_cell_of_origin rfl rfl rfl
  fault := by decide
  record := by decide
  fault_pc := by decide

/-- Orders 1 and `WLOGDIM + 1` and the ones beside them; cell `(1, 3)` of order 3. -/
theorem witness_WalshCommands : walshMachine.Inv ∧
    (fun s : State => 1 ≤ s.idx 0 ∧ s.idx 2 ≤ s.cfg.wLogDim + 1 ∧ s.WORD ≠ 0 ∧ s.idx 0 < 2 ^ (s.WORD - 1) ∧
      s.idx 1 < 2 ^ (s.WORD - 1) ∧ ¬ s.idx 2 < 2 ^ (s.WORD - 1)) walshMachine ∧
    (sized [0#32] [] []).idx 0 < 1 ∧ (sized [8#32] [] []).cfg.wLogDim + 1 < (sized [8#32] [] []).idx 0 ∧
    State.reset.WORD = 0 :=
  ⟨witness_Inv, by decide, by decide, by decide, rfl⟩

theorem witness_WalshRecursion : 2 ≤ 3 ∧ 3 < 2 ^ (3 - 1) ∧ 1 < 2 ^ (3 - 2) := by decide

theorem witness_WalshOrthogonal : 1 ≤ 1 ∧ 0 < 2 ^ (1 - 1) ∧ 1 ≤ 3 ∧ 3 < 2 ^ (3 - 1) := by decide

theorem witness_WalshMemo : (∀ pn, Instr.nop ≠ .words pn) ∧ (∃ t, exec .nop walshMachine = .next t) ∧
    walshMachine.cell 0 0 = some .pos :=
  ⟨by decide, ⟨_, rfl⟩, by decide⟩

theorem witness_CommandEnds : walshMachine.STATE = .run := by decide

theorem witness_FaultCauses : walshMachine.STATE = .run ∧
    exec (.rld 0 0 2) walshMachine = .next (walshMachine.takeFault .bounds 7) ∧
    (walshMachine.takeFault .bounds 7).STATE = .fault :=
  ⟨by decide, rfl, by decide⟩

theorem witness_FrameRegisters : (∃ t, exec (.zmk 1 0 1) walshMachine = .next t) ∧ (Instr.zmk 1 0 1).writesP 1 = false ∧
    (Instr.zmk 1 0 1).writesZ 0 = false :=
  ⟨⟨_, rfl⟩, by decide, by decide⟩

theorem witness_FrameBanks : (∃ t, exec (.realp 1 0) walshMachine = .next t) ∧ (Instr.realp 1 0).writesR 0 = false ∧
    (Instr.realp 1 0).writesC 0 = false :=
  ⟨⟨_, rfl⟩, by decide, by decide⟩

theorem witness_FrameControl : walshMachine.STATE = .run ∧ (∃ t, exec (.movp 0 1) walshMachine = .next t ∧ t.STATE ≠ .fault) ∧
    (Instr.movp 0 1).writesWalsh = false :=
  ⟨by decide, ⟨_, rfl, by decide⟩, by decide⟩

theorem witness_FrameBeyondLength : (Instr.conjv 0).inPlaceC = some 0 ∧ (∃ t, exec (.conjv 0) walshMachine = .next t) ∧
    2 * walshMachine.clen 0 ≤ 2 ∧ (∃ t, exec (.xcorr 0 1 2) walshMachine = .next t) ∧ walshMachine.rlen 0 ≤ 2 ∧
    (4096#32).toNat ≤ walshMachine.cap ∧ walshMachine.rlen 0 ≤ (2#32).toNat ∧ walshMachine.clen 0 ≤ (4096#32).toNat :=
  ⟨by decide, ⟨_, rfl⟩, by decide, ⟨_, rfl⟩, by decide, by decide, by decide, by decide⟩

theorem witness_CommandSequences :
    ispow2 ((sized [] [] [1]).clen 0) = true ∧
    (fun s : State => ispow2 (s.idx 0) = true ∧ s.idx 0 ≤ s.cap ∧ s.rlen 0 ≤ s.idx 0) (sized [4#32] [4] []) ∧
    (fun s : State => s.cfg.wf = true ∧ (12 : Fin 16).val ≤ 12 ∧ s.idx 0 = s.clen 0 ∧ s.clen 0 ≤ s.cap ∧
      ispow2 (s.clen 0) = true ∧ bpedge (s.clen 0) (s.getP 1) (s.getP 2) (s.getP 3) = .ok (1, 3) ∧ 1 ≤ 3)
      (sized [16#32, 0x41800000#32, 0x40200000#32, 0x40000000#32] [] [16]) ∧
    (fun s : State => s.idx 0 = 1 ∧ s.idx 1 = s.clen 0 ∧ s.clen 0 ≤ s.cap) (sized [1#32, 3#32] [] [3]) ∧
    [num 1, num 2].length ≤ 2 ∧ ispow2 2 = true ∧
    (fun s : State => (0 : Fin 4) ≠ 1 ∧ s.idx 1 = 1 ∧ ispow2 (s.idx 0) = true ∧ s.idx 0 ≤ s.cap ∧ s.rlen 0 ≤ s.idx 0)
      (sized [4096#32, 1#32] [4096] []) := by decide +kernel

/-- A state and one that differs from it in the words beyond two lengths. -/
def unseen : State :=
  { walshMachine with
    RB := walshMachine.RB.set 1 { len := 0, mem := { cells := [(3, num 9)], draw := 4 } }
    CB := walshMachine.CB.set 0 { walshMachine.CB[0] with mem := walshMachine.CB[0].mem.write 2 (num 9) } }

theorem witness_UnseenSamples : walshMachine ≠ unseen ∧ walshMachine.SameToCommands unseen ∧
    ∃ t, exec (.fft 0) walshMachine = .next t :=
  ⟨by decide, ⟨rfl, rfl, rfl, rfl, rfl, ⟨rfl, rfl, rfl⟩, by decide, by decide, by decide, by decide, fun _ => rfl, ⟨rfl, rfl⟩,
    rfl, ⟨rfl, rfl⟩⟩, ⟨_, rfl⟩⟩

theorem witness_InvariantKept : walshMachine.Inv ∧ step walshMachine = .next walshMachine.advance ∧
    step { walshMachine with STATE := .halted, host := [.move (.write 0x0011 5#32)] } =
      .next (({ walshMachine with STATE := .halted, host := [] } : State).setP 1 5#32) :=
  ⟨witness_Inv, rfl, rfl⟩

theorem witness_RunEnds : walshMachine.host = [] ∧ walshMachine.STATE = .run ∧ walshMachine.pc ≤ walshMachine.cfg.cmdCap ∧
    ({ walshMachine with pc := 256 } : State).pc ≤ walshMachine.cfg.cmdCap := by decide

/-- The largest finite number and the smallest subnormal. -/
theorem witness_RoundedOnce : F32.isFinite 0x7F7FFFFF#32 = true ∧ F32.isFinite 0x00000001#32 = true ∧
    F32.feq0 0x00000001#32 = false ∧ F32.sign 0x00000000#32 = false := by decide

theorem witness_SpecialOperands :
    F32.isNaN 0x7F800001#32 = true ∧ F32.isInf 0xFF800000#32 = true ∧ F32.isInf 0x7F800000#32 = true ∧
    F32.feq0 0x80000000#32 = true ∧ F32.feq0 0x00000000#32 = true ∧
    F32.isFinite 0x7F7FFFFF#32 = true ∧ F32.feq0 0x7F7FFFFF#32 = false ∧ F32.isNaN 0x7F7FFFFF#32 = false ∧
    F32.sign 0x80000001#32 = true ∧ F32.feq0 0x80000001#32 = false ∧ F32.isFinite 0x80000000#32 = true ∧
    16777216 ≤ 2 ^ 24 ∧ F32.f2iTrunc 0xBF800000#32 = some (-1) ∧ F32.f2iRound 0x3F000000#32 = some 1 := by decide +kernel

/-- Operands whose exact sum, and whose exact difference, is zero. -/
theorem witness_SpecialOperands_zero_sum :
    F32.isFinite 0x3F800000#32 = true ∧ F32.isFinite 0xBF800000#32 = true ∧
    F32.value 0x3F800000#32 + F32.value 0xBF800000#32 = 0 ∧ F32.value 0x80000000#32 = F32.value 0x00000000#32 := by
  have h1 : F32.smant 0x3F800000#32 = 8388608 ∧ F32.smant 0xBF800000#32 = -8388608 ∧ F32.smant 0x80000000#32 = 0 ∧
      F32.smant 0x00000000#32 = 0 ∧ F32.expo 0x3F800000#32 = F32.expo 0xBF800000#32 := by decide +kernel
  obtain ⟨a, b, c, d, e⟩ := h1
  refine ⟨by decide, by decide, ?_, ?_⟩ <;> simp [F32.value, a, b, c, d, e]

end Sys2Proof.Tests
end

section
/-! The pattern of a binary32 (00_scope R12) as a sign and a magnitude: every test the model makes on a pattern is a
comparison of its magnitude, and `pack` builds the pattern that has a given sign and magnitude. -/

namespace Sys2Proof.F32

theorem sign_eq_decide (x : F32) : sign x = decide (2 ^ 31 ≤ x.toNat) := BitVec.msb_eq_decide x

theorem toNat_eq (x : F32) : x.toNat = (if sign x then 2 ^ 31 else 0) + magBits x := by
  have := x.isLt
  simp only [sign_eq_decide, magBits, decide_eq_true_eq]
  split <;> omega

theorem eq_of_sign_of_magBits {x y : F32} (hs : sign x = sign y) (hm : magBits x = magBits y) : x = y := by
  apply BitVec.eq_of_toNat_eq
  rw [toNat_eq, toNat_eq, hs, hm]

theorem magBits_lt (x : F32) : magBits x < 2 ^ 31 := Nat.mod_lt _ (by decide)

theorem expField_eq (x : F32) : expField x = magBits x / 2 ^ 23 := by
  unfold expField magBits
  omega

theorem frac_eq (x : F32) : frac x = magBits x % 2 ^ 23 := by
  unfold frac magBits
  omega

theorem isNaN_eq (x : F32) : isNaN x = decide (infMag < magBits x) := by
  have := magBits_lt x
  rw [isNaN, expField_eq, frac_eq, Bool.eq_iff_iff, decide_eq_true_eq]
  simp only [infMag, Bool.and_eq_true, beq_iff_eq, bne_iff_ne]
  omega

theorem isInf_eq (x : F32) : isInf x = decide (magBits x = infMag) := by
  have := magBits_lt x
  rw [isInf, expField_eq, frac_eq, Bool.eq_iff_iff, decide_eq_true_eq]
  simp only [infMag, Bool.and_eq_true, beq_iff_eq]
  omega

theorem isFinite_eq (x : F32) : isFinite x = decide (magBits x < infMag) := by
  have := magBits_lt x
  rw [isFinite, expField_eq, Bool.eq_iff_iff, decide_eq_true_eq]
  simp only [infMag, bne_iff_ne]
  omega

theorem isFinite_iff {x : F32} : isFinite x = true ↔ magBits x < infMag := by simp [isFinite_eq]

theorem isNaN_of_isFinite {x : F32} (h : isFinite x = true) : isNaN x = false := by
  rw [isFinite_iff] at h
  simp [isNaN_eq, h.le]

theorem isInf_of_isFinite {x : F32} (h : isFinite x = true) : isInf x = false := by
  rw [isFinite_iff] at h
  simp [isInf_eq, h.ne]

theorem isNaN_of_isInf {x : F32} (h : isInf x = true) : isNaN x = false := by
  rw [isInf_eq, decide_eq_true_eq] at h
  simp [isNaN_eq, h]

theorem pack_toNat (s : Bool) {g : Nat} (h : g < 2 ^ 31) : (pack s g).toNat = (if s then 2 ^ 31 else 0) + g := by
  rw [pack, BitVec.toNat_ofNat]
  cases s
  · simp; omega
  · simp; omega

theorem sign_pack (s : Bool) {g : Nat} (h : g < 2 ^ 31) : sign (pack s g) = s := by
  rw [sign_eq_decide, pack_toNat s h]
  cases s
  · simp; omega
  · simp

theorem magBits_pack (s : Bool) {g : Nat} (h : g < 2 ^ 31) : magBits (pack s g) = g := by
  rw [magBits, pack_toNat s h]
  cases s
  · simp; omega
  · simp; omega

theorem pack_eq_iff {x : F32} (s : Bool) {g : Nat} (h : g < 2 ^ 31) : x = pack s g ↔ sign x = s ∧ magBits x = g := by
  constructor
  · rintro rfl
    exact ⟨sign_pack s h, magBits_pack s h⟩
  · rintro ⟨hs, hm⟩
    exact eq_of_sign_of_magBits (hs.trans (sign_pack s h).symm) (hm.trans (magBits_pack s h).symm)

@[simp] theorem isNaN_nanOf (op : Config.FOp) (x y : F32) : isNaN (nanOf op x y) = true := by
  have h : frac (Config.nanBits op x y) < 2 ^ 23 := Nat.mod_lt _ (by decide)
  rw [isNaN_eq, decide_eq_true_eq, nanOf, magBits_pack _ (by simp only [infMag]; omega)]
  omega

@[simp] theorem sign_fneg (x : F32) : sign (fneg x) = !sign x := by
  have h : BitVec.msb 0x80000000#32 = true := by decide
  simp [sign, fneg, BitVec.msb_xor, h]

@[simp] theorem magBits_fneg (x : F32) : magBits (fneg x) = magBits x := by
  rw [magBits, fneg, BitVec.toNat_xor, Nat.xor_mod_two_pow]
  simp [magBits]

@[simp] theorem fneg_fneg (x : F32) : fneg (fneg x) = x := eq_of_sign_of_magBits (by simp) (by simp)

theorem fneg_pack (s : Bool) {g : Nat} (h : g < 2 ^ 31) : fneg (pack s g) = pack (!s) g := by
  rw [pack_eq_iff _ h, sign_fneg, magBits_fneg, sign_pack s h, magBits_pack s h]
  exact ⟨rfl, rfl⟩

@[simp] theorem isNaN_fneg (x : F32) : isNaN (fneg x) = isNaN x := by simp [isNaN_eq]

@[simp] theorem isInf_fneg (x : F32) : isInf (fneg x) = isInf x := by simp [isInf_eq]

@[simp] theorem isFinite_fneg (x : F32) : isFinite (fneg x) = isFinite x := by simp [isFinite_eq]

theorem feq0_iff {x : F32} : feq0 x = true ↔ x = 0x00000000#32 ∨ x = 0x80000000#32 := by
  simp [feq0, zero, negZero]

theorem posZero_eq_pack : 0x00000000#32 = pack false 0 := by decide

theorem negZero_eq_pack : 0x80000000#32 = pack true 0 := by decide

theorem posInf_eq_pack : 0x7F800000#32 = pack false infMag := by decide

theorem negInf_eq_pack : 0xFF800000#32 = pack true infMag := by decide

theorem feq0_iff_magBits {x : F32} : feq0 x = true ↔ magBits x = 0 := by
  rw [feq0_iff, posZero_eq_pack, negZero_eq_pack, pack_eq_iff _ (by decide), pack_eq_iff _ (by decide)]
  cases sign x <;> simp

theorem isFinite_of_feq0 {x : F32} (h : feq0 x = true) : isFinite x = true := by
  rw [feq0_iff_magBits] at h
  rw [isFinite_iff, h]
  decide

end Sys2Proof.F32
end

section
/-! The exact value of a finite pattern: a significand below `2 ^ 24` on a last place from `2 ^ -149` up, its leading bit
at `2 ^ 23` unless the last place is the lowest one. Values stand in the order of the ranks. -/

namespace Sys2Proof.F32

theorem magBits_eq (x : F32) : (magBits x : ℤ) = (expo x + 149) * 2 ^ 23 + mant x := by
  rw [expo, mant, expField_eq, frac_eq]
  split <;> omega

theorem mant_lt (x : F32) : mant x < 2 ^ 24 := by
  rw [mant, frac_eq]
  split <;> omega

theorem expo_ge (x : F32) : -149 ≤ expo x := by
  rw [expo]
  omega

theorem expo_le {x : F32} (h : isFinite x = true) : expo x ≤ 104 := by
  rw [isFinite_iff, infMag] at h
  rw [expo, expField_eq]
  omega

/-- A pattern is subnormal, on the lowest last place, or has its leading bit. -/
theorem expo_eq_or_le_mant (x : F32) : expo x = -149 ∨ 2 ^ 23 ≤ mant x := by
  rw [expo, mant]
  split
  · left; simp [*]
  · right; omega

theorem mant_eq_zero_iff {x : F32} : mant x = 0 ↔ feq0 x = true := by
  have h1 := magBits_eq x
  have h2 := expo_eq_or_le_mant x
  have h3 := expo_ge x
  rw [feq0_iff_magBits]
  omega

@[simp] theorem mant_fneg (x : F32) : mant (fneg x) = mant x := by simp [mant, expField_eq, frac_eq]

@[simp] theorem expo_fneg (x : F32) : expo (fneg x) = expo x := by simp [expo, expField_eq]

@[simp] theorem smant_fneg (x : F32) : smant (fneg x) = -smant x := by
  cases h : sign x <;> simp [smant, h]

theorem natAbs_smant (x : F32) : (smant x).natAbs = mant x := by
  unfold smant
  split <;> omega

theorem smant_eq_zero_iff {x : F32} : smant x = 0 ↔ feq0 x = true := by
  rw [← mant_eq_zero_iff, ← natAbs_smant, Int.natAbs_eq_zero]

@[simp] theorem value_fneg (x : F32) : value (fneg x) = -value x := by simp [value]

/-- The value is the magnitude `mant x * 2 ^ expo x` with the sign of the pattern. -/
theorem value_eq (x : F32) : value x = if sign x then -((mant x : ℚ) * 2 ^ expo x) else (mant x : ℚ) * 2 ^ expo x := by
  cases h : sign x <;> simp [value, smant, h]

theorem abs_value (x : F32) : |value x| = mant x * 2 ^ expo x := by
  have h : (0 : ℚ) ≤ mant x * 2 ^ expo x := by positivity
  rw [value_eq]
  split
  · rw [abs_neg, abs_of_nonneg h]
  · rw [abs_of_nonneg h]

theorem value_eq_sign_abs (x : F32) : value x = if sign x then -|value x| else |value x| := by
  rw [abs_value, ← value_eq]

theorem value_eq_zero_iff {x : F32} : value x = 0 ↔ feq0 x = true := by
  rw [value, mul_eq_zero, Int.cast_eq_zero, smant_eq_zero_iff]
  simp [zpow_ne_zero]

theorem abs_value_congr {x y : F32} (h : magBits x = magBits y) : |value x| = |value y| := by
  simp only [abs_value, mant, expo, expField_eq, frac_eq, h]

theorem abs_value_lt {x : F32} {t : ℤ} (h : expo x ≤ t) : |value x| < 2 ^ (t + 24) := by
  have hm : (mant x : ℚ) < 2 ^ 24 := by exact_mod_cast mant_lt x
  calc |value x| = mant x * 2 ^ expo x := abs_value x
    _ < 2 ^ 24 * 2 ^ expo x := by gcongr
    _ ≤ 2 ^ 24 * 2 ^ t := by gcongr; norm_num
    _ = 2 ^ (t + 24) := by rw [zpow_add₀ two_ne_zero, mul_comm]; norm_num

theorem abs_value_strictMono {x y : F32} (h : magBits x < magBits y) : |value x| < |value y| := by
  have hx := magBits_eq x
  have hy := magBits_eq y
  have hx' := expo_eq_or_le_mant x
  have hy' := expo_eq_or_le_mant y
  have hmx := mant_lt x
  have hmy := mant_lt y
  have hex := expo_ge x
  have hey := expo_ge y
  rcases lt_trichotomy (expo x) (expo y) with he | he | he
  · have hm : (2 : ℚ) ^ 23 ≤ mant y := by
      have : 2 ^ 23 ≤ mant y := by omega
      exact_mod_cast this
    calc |value x| < 2 ^ (expo y - 1 + 24) := abs_value_lt (by omega)
      _ = 2 ^ 23 * 2 ^ expo y := by
          rw [show expo y - 1 + 24 = 23 + expo y by ring, zpow_add₀ two_ne_zero]; norm_num
      _ ≤ mant y * 2 ^ expo y := by gcongr
      _ = |value y| := (abs_value y).symm
  · have hm : mant x < mant y := by
      rw [he] at hx
      omega
    rw [abs_value, abs_value, he]
    gcongr
  · omega

theorem value_lt_of_rank_lt {x y : F32} (h : rank x < rank y) : value x < value y := by
  have hx := abs_nonneg (value x)
  have hy := abs_nonneg (value y)
  rw [value_eq_sign_abs x, value_eq_sign_abs y]
  rw [rank, rank] at h
  cases hsx : sign x <;> cases hsy : sign y <;> simp only [hsx, hsy, Bool.false_eq_true, if_true, if_false] at h ⊢
  · exact abs_value_strictMono (by omega)
  · omega
  · rcases Nat.eq_zero_or_pos (magBits x) with h0 | h0
    · have : |value x| < |value y| := abs_value_strictMono (by omega)
      linarith
    · have : |value (0#32 : F32)| < |value x| := abs_value_strictMono (by simpa [magBits] using h0)
      have := abs_nonneg (value (0#32 : F32))
      linarith
  · exact neg_lt_neg (abs_value_strictMono (by omega))

theorem value_eq_of_rank_eq {x y : F32} (h : rank x = rank y) : value x = value y := by
  have hm : magBits x = magBits y := by
    unfold rank at h
    split at h <;> split at h <;> omega
  by_cases hs : sign x = sign y
  · rw [eq_of_sign_of_magBits hs hm]
  · have h0 : magBits x = 0 := by
      unfold rank at h
      cases hx : sign x <;> cases hy : sign y <;> simp_all
    rw [value_eq_zero_iff.mpr (feq0_iff_magBits.mpr h0), value_eq_zero_iff.mpr (feq0_iff_magBits.mpr (hm ▸ h0))]

theorem rank_lt_iff {x y : F32} : rank x < rank y ↔ value x < value y := by
  refine ⟨value_lt_of_rank_lt, fun h => ?_⟩
  rcases lt_trichotomy (rank x) (rank y) with hr | hr | hr
  · exact hr
  · exact absurd (value_eq_of_rank_eq hr) h.ne
  · exact absurd (value_lt_of_rank_lt hr) h.asymm

theorem rank_le_iff {x y : F32} : rank x ≤ rank y ↔ value x ≤ value y := by
  rw [← not_lt, ← not_lt, rank_lt_iff]

end Sys2Proof.F32
end

section
/-! Rounding (00_scope R12). `roundMag m e` rounds every real number that `m` stands for at the scale `2 ^ e`: first to a
whole number of last places, ties to even (`IsRounding`), and that number as a pattern is the nearest binary32. -/

namespace Sys2Proof.F32

/-! ## To a whole number of last places -/

/-- `q` is a whole number nearest to `y`, the even one of two. -/
def IsHalfEven (q : ℕ) (y : ℝ) : Prop := |y - q| ≤ 1 / 2 ∧ (|y - q| = 1 / 2 → q % 2 = 0)

/-- What an operation hands to `roundMag` for the exact result `y`: `y` itself, or an odd number next to it, of so many
bits that the last two are below every last place (the last bit says that the result is inexact). -/
def StandsFor (m : ℕ) (y : ℝ) : Prop := y = m ∨ (2 ^ 25 ≤ m ∧ m % 2 = 1 ∧ |y - m| < 1)

theorem IsHalfEven.natCast (q : ℕ) : IsHalfEven q q := by
  norm_num [IsHalfEven]

/-- The remainder decides: at most half the divisor below, at most half above, even where it is half. -/
theorem roundShift_spec (m sh : ℕ) (h : 1 ≤ sh) :
    m ≤ roundShift m sh * 2 ^ sh + 2 ^ (sh - 1) ∧ roundShift m sh * 2 ^ sh ≤ m + 2 ^ (sh - 1) ∧
      (m = roundShift m sh * 2 ^ sh + 2 ^ (sh - 1) ∨ roundShift m sh * 2 ^ sh = m + 2 ^ (sh - 1) →
        roundShift m sh % 2 = 0) := by
  obtain ⟨k, rfl⟩ : ∃ k, sh = k + 1 := ⟨sh - 1, by omega⟩
  have hdiv := Nat.div_add_mod m (2 ^ (k + 1))
  have hmod : m % 2 ^ (k + 1) < 2 ^ (k + 1) := Nat.mod_lt _ (by positivity)
  have hpow : 2 ^ (k + 1) = 2 * 2 ^ k := by ring
  simp only [roundShift, Nat.add_sub_cancel, Bool.or_eq_true, Bool.and_eq_true, decide_eq_true_eq, beq_iff_eq]
  rw [mul_comm] at hdiv
  split
  · rw [Nat.add_mul, one_mul]
    omega
  · omega

/-- Half-even rounding of a quotient, over the common divisor. -/
theorem isHalfEven_div_pow_iff {q sh : ℕ} {y : ℝ} (h : 1 ≤ sh) :
    IsHalfEven q (y / 2 ^ sh) ↔
      |y - q * 2 ^ sh| ≤ 2 ^ (sh - 1) ∧ (|y - q * 2 ^ sh| = 2 ^ (sh - 1) → q % 2 = 0) := by
  have hpos : (0 : ℝ) < 2 ^ sh := by positivity
  have hhalf : 1 / 2 * (2 : ℝ) ^ sh = 2 ^ (sh - 1) := by
    obtain ⟨k, rfl⟩ : ∃ k, sh = k + 1 := ⟨sh - 1, by omega⟩
    rw [Nat.add_sub_cancel]
    ring
  have hdist : |y / 2 ^ sh - q| = |y - q * 2 ^ sh| / 2 ^ sh := by
    rw [div_sub' hpos.ne', abs_div, abs_of_pos hpos, mul_comm]
  rw [IsHalfEven, hdist, div_le_iff₀ hpos, div_eq_iff hpos.ne', hhalf]

theorem roundShift_isHalfEven_natCast {m sh : ℕ} (h : 1 ≤ sh) : IsHalfEven (roundShift m sh) (m / 2 ^ sh) := by
  obtain ⟨hlo, hhi, htie⟩ := roundShift_spec m sh h
  have hlo' : (m : ℝ) ≤ roundShift m sh * 2 ^ sh + 2 ^ (sh - 1) := by exact_mod_cast hlo
  have hhi' : (roundShift m sh * 2 ^ sh : ℝ) ≤ m + 2 ^ (sh - 1) := by exact_mod_cast hhi
  refine (isHalfEven_div_pow_iff h).mpr ⟨abs_le.mpr ⟨by linarith, by linarith⟩, fun he => htie ?_⟩
  refine (eq_or_eq_neg_of_abs_eq he).imp (fun he => ?_) fun he => ?_
  · have : (m : ℝ) = roundShift m sh * 2 ^ sh + 2 ^ (sh - 1) := by linarith
    exact_mod_cast this
  · have : (roundShift m sh * 2 ^ sh : ℝ) = m + 2 ^ (sh - 1) := by linarith
    exact_mod_cast this

/-- An odd `m` is a whole unit inside the interval around its rounded quotient, whose ends are even; so everything within
one unit of `m` is inside as well, and no tie. -/
theorem roundShift_isHalfEven_sticky {m sh : ℕ} {y : ℝ} (h : 2 ≤ sh) (hodd : m % 2 = 1) (hy : |y - m| < 1) :
    IsHalfEven (roundShift m sh) (y / 2 ^ sh) := by
  obtain ⟨hlo, hhi, -⟩ := roundShift_spec m sh (by omega)
  obtain ⟨k, rfl⟩ : ∃ k, sh = k + 2 := ⟨sh - 2, by omega⟩
  rw [Nat.add_succ_sub_one] at hlo hhi
  rw [isHalfEven_div_pow_iff (by omega), Nat.add_succ_sub_one]
  have hhalf : 2 ^ (k + 1) = 2 * 2 ^ k := by ring
  have hq : roundShift m (k + 2) * 2 ^ (k + 2) = 2 * (roundShift m (k + 2) * 2 ^ (k + 1)) := by ring
  have hlo' : (m : ℝ) + 1 ≤ roundShift m (k + 2) * 2 ^ (k + 2) + 2 ^ (k + 1) := by
    have : m + 1 ≤ roundShift m (k + 2) * 2 ^ (k + 2) + 2 ^ (k + 1) := by omega
    exact_mod_cast this
  have hhi' : (roundShift m (k + 2) * 2 ^ (k + 2) : ℝ) + 1 ≤ m + 2 ^ (k + 1) := by
    have : roundShift m (k + 2) * 2 ^ (k + 2) + 1 ≤ m + 2 ^ (k + 1) := by omega
    exact_mod_cast this
  have hlt : |y - roundShift m (k + 2) * 2 ^ (k + 2)| < 2 ^ (k + 1) := by
    rw [abs_lt] at hy ⊢
    constructor <;> linarith [hy.1, hy.2]
  exact ⟨hlt.le, fun he => absurd he hlt.ne⟩

/-- `r` is `q` last places of size `2 ^ t` after rounding, and `t` is the last place a binary32 of its size has. -/
structure IsRounding (r : ℝ) (t : ℤ) (q : ℕ) : Prop where
  nonneg : 0 ≤ r
  lowest : -149 ≤ t
  halfEven : IsHalfEven q (r / 2 ^ t)
  lt : r / 2 ^ t < 2 ^ 24
  normal : t = -149 ∨ 2 ^ 23 ≤ r / 2 ^ t

/-- The whole number of last places `roundMag` finds. -/
def significand (m : ℕ) (e : ℤ) : ℕ :=
  if ulpExp m e ≤ e then m * 2 ^ (e - ulpExp m e).toNat else roundShift m (ulpExp m e - e).toNat

theorem roundMag_eq {m : ℕ} (h : m ≠ 0) (e : ℤ) :
    roundMag m e = min ((ulpExp m e + 149).toNat * 2 ^ 23 + significand m e) infMag := by
  simp only [roundMag, if_neg h, significand]

theorem StandsFor.bounds {m : ℕ} {y : ℝ} (h : StandsFor m y) (hm : m ≠ 0) :
    2 ^ Nat.log2 m ≤ y ∧ y < 2 ^ (Nat.log2 m + 1) := by
  have hlo : 2 ^ Nat.log2 m ≤ m := Nat.log2_self_le hm
  have hhi : m + 1 ≤ 2 ^ (Nat.log2 m + 1) := Nat.lt_log2_self
  have hhi' : (m : ℝ) + 1 ≤ 2 ^ (Nat.log2 m + 1) := by exact_mod_cast hhi
  rcases h with rfl | ⟨hbig, hodd, hnear⟩
  · exact ⟨by exact_mod_cast hlo, by linarith⟩
  · have hlog : 1 ≤ Nat.log2 m := (Nat.le_log2 hm).mpr (by omega)
    have heven : 2 ^ Nat.log2 m = 2 * 2 ^ (Nat.log2 m - 1) := by rw [← pow_succ']; congr 1; omega
    have hlo' : (2 : ℝ) ^ Nat.log2 m + 1 ≤ m := by
      have : 2 ^ Nat.log2 m + 1 ≤ m := by omega
      exact_mod_cast this
    rw [abs_lt] at hnear
    constructor <;> linarith [hnear.1, hnear.2]

theorem natCast_zpow_toNat {d : ℤ} (h : 0 ≤ d) : (2 : ℝ) ^ d.toNat = 2 ^ d := by
  rw [← zpow_natCast, Int.toNat_of_nonneg h]

theorem StandsFor.significand_isHalfEven {m : ℕ} {y : ℝ} (h : StandsFor m y) (hm : m ≠ 0) (e : ℤ) :
    IsHalfEven (significand m e) (y * 2 ^ e / 2 ^ ulpExp m e) := by
  unfold significand
  split
  next hle =>
    have hlog : Nat.log2 m < 25 := by
      unfold ulpExp at hle
      omega
    rcases h with rfl | ⟨hbig, -, -⟩
    · have hexact : (m : ℝ) * 2 ^ e / 2 ^ ulpExp m e = ((m * 2 ^ (e - ulpExp m e).toNat : ℕ) : ℝ) := by
        push_cast
        rw [natCast_zpow_toNat (by omega), zpow_sub₀ two_ne_zero, mul_div_assoc]
      rw [hexact]
      exact IsHalfEven.natCast _
    · exact absurd ((Nat.le_log2 hm).mpr hbig) (by omega)
  next hlt =>
    have hscale : y * 2 ^ e / 2 ^ ulpExp m e = y / 2 ^ (ulpExp m e - e).toNat := by
      rw [natCast_zpow_toNat (by omega), zpow_sub₀ two_ne_zero]
      field_simp
    rw [hscale]
    rcases h with rfl | ⟨hbig, hodd, hnear⟩
    · exact roundShift_isHalfEven_natCast (by omega)
    · have hlog := (Nat.le_log2 hm).mpr hbig
      exact roundShift_isHalfEven_sticky (by unfold ulpExp; omega) hodd hnear

theorem StandsFor.isRounding {m : ℕ} {y : ℝ} (h : StandsFor m y) (hm : m ≠ 0) (e : ℤ) :
    IsRounding (y * 2 ^ e) (ulpExp m e) (significand m e) := by
  obtain ⟨hlo, hhi⟩ := h.bounds hm
  have hy : 0 < y := lt_of_lt_of_le (by positivity) hlo
  have hscale : y * 2 ^ e / 2 ^ ulpExp m e = y * 2 ^ (e - ulpExp m e) := by rw [zpow_sub₀ two_ne_zero, mul_div_assoc]
  have hlog : ulpExp m e = max (e + (Nat.log2 m : ℤ) - 23) (-149) := rfl
  refine ⟨by positivity, by omega, h.significand_isHalfEven hm e, ?_, ?_⟩
  · rw [hscale]
    calc y * 2 ^ (e - ulpExp m e) < 2 ^ (Nat.log2 m + 1) * 2 ^ (e - ulpExp m e) := by gcongr
      _ = 2 ^ ((Nat.log2 m : ℤ) + 1 + (e - ulpExp m e)) := by rw [zpow_add₀ two_ne_zero]; norm_cast
      _ ≤ 2 ^ (24 : ℤ) := zpow_le_zpow_right₀ one_le_two (by omega)
      _ = 2 ^ 24 := by norm_cast
  · by_cases ht : ulpExp m e = -149
    · exact .inl ht
    · right
      rw [hscale]
      calc (2 : ℝ) ^ 23 = 2 ^ ((Nat.log2 m : ℤ) + (e - ulpExp m e)) := by
            rw [show (Nat.log2 m : ℤ) + (e - ulpExp m e) = 23 by omega]; norm_cast
        _ = 2 ^ Nat.log2 m * 2 ^ (e - ulpExp m e) := by rw [zpow_add₀ two_ne_zero]; norm_cast
        _ ≤ y * 2 ^ (e - ulpExp m e) := by gcongr

theorem IsRounding.le {r : ℝ} {t : ℤ} {q : ℕ} (h : IsRounding r t q) : q ≤ 2 ^ 24 := by
  have h1 := (abs_le.mp h.halfEven.1).1
  have h2 := h.lt
  have : (q : ℝ) < 2 ^ 24 + 1 := by linarith
  have : q < 2 ^ 24 + 1 := by exact_mod_cast this
  omega

theorem IsRounding.normal_significand {r : ℝ} {t : ℤ} {q : ℕ} (h : IsRounding r t q) : t = -149 ∨ 2 ^ 23 ≤ q := by
  refine h.normal.imp_right fun hn => ?_
  have h1 := (abs_le.mp h.halfEven.1).2
  have : (2 : ℝ) ^ 23 < q + 1 := by linarith
  have : 2 ^ 23 < q + 1 := by exact_mod_cast this
  omega

/-! ## The pattern of a rounded number -/

/-- The pattern that `roundMag` puts together for `q` last places of size `2 ^ t`. -/
def placed (t : ℤ) (q : ℕ) : ℕ := (t + 149).toNat * 2 ^ 23 + q

/-- The carry of `q = 2 ^ 24` goes into the exponent field and leaves the even significand `2 ^ 23`. -/
theorem mant_expo_pack_placed {t : ℤ} {q : ℕ} (ht : -149 ≤ t) (hq : q ≤ 2 ^ 24) (hn : t = -149 ∨ 2 ^ 23 ≤ q)
    (hfin : placed t q < infMag) :
    (mant (pack false (placed t q)) = q ∧ expo (pack false (placed t q)) = t) ∨
      (q = 2 ^ 24 ∧ mant (pack false (placed t q)) = 2 ^ 23 ∧ expo (pack false (placed t q)) = t + 1) := by
  simp only [infMag] at hfin
  rw [mant, expo, expField_eq, frac_eq, magBits_pack _ (by omega)]
  unfold placed at *
  split <;> omega

theorem value_pack_placed {t : ℤ} {q : ℕ} (ht : -149 ≤ t) (hq : q ≤ 2 ^ 24) (hn : t = -149 ∨ 2 ^ 23 ≤ q)
    (hfin : placed t q < infMag) : value (pack false (placed t q)) = q * 2 ^ t := by
  have hg : placed t q < 2 ^ 31 := by simp only [infMag] at hfin; omega
  rw [value_eq, sign_pack _ hg, if_neg (by decide)]
  rcases mant_expo_pack_placed ht hq hn hfin with ⟨hm, he⟩ | ⟨rfl, hm, he⟩
  · rw [hm, he]
  · rw [hm, he, zpow_add_one₀ two_ne_zero]
    push_cast
    ring

theorem mant_pack_placed_even {t : ℤ} {q : ℕ} (ht : -149 ≤ t) (hq : q ≤ 2 ^ 24) (hn : t = -149 ∨ 2 ^ 23 ≤ q)
    (hfin : placed t q < infMag) (heven : q % 2 = 0) : mant (pack false (placed t q)) % 2 = 0 := by
  rcases mant_expo_pack_placed ht hq hn hfin with ⟨hm, -⟩ | ⟨-, hm, -⟩ <;> omega

/-! ## The nearest binary32 -/

theorem cast_value (x : F32) : (value x : ℝ) = smant x * 2 ^ expo x := by simp [value]

/-- In last places of size `2 ^ t` a binary32 is a whole number or too small to have that last place. -/
theorem value_eq_mul_zpow (w : F32) (t : ℤ) :
    ∃ u : ℝ, (value w : ℝ) = u * 2 ^ t ∧ ((∃ n : ℤ, u = n) ∨ (t ≠ -149 ∧ u < 2 ^ 23)) := by
  refine ⟨smant w * 2 ^ (expo w - t), ?_, ?_⟩
  · rw [cast_value, zpow_sub₀ two_ne_zero]
    field_simp
  by_cases h : t ≤ expo w
  · refine .inl ⟨smant w * 2 ^ (expo w - t).toNat, ?_⟩
    push_cast
    rw [natCast_zpow_toNat (by omega)]
  · right
    have hw := expo_ge w
    have hm : (smant w : ℝ) < 2 ^ 24 := by
      have h1 := mant_lt w
      have h2 := natAbs_smant w
      have : smant w < 2 ^ 24 := by omega
      exact_mod_cast this
    refine ⟨by omega, ?_⟩
    calc (smant w : ℝ) * 2 ^ (expo w - t) < 2 ^ 24 * 2 ^ (expo w - t) := by gcongr
      _ ≤ 2 ^ 24 * 2 ^ (-1 : ℤ) := by gcongr <;> [norm_num; omega]
      _ = 2 ^ 23 := by norm_num

/-- A nearest whole number is at least as near as any other, and is even where another one is as near. -/
theorem IsHalfEven.nearest {q : ℕ} {y : ℝ} (h : IsHalfEven q y) (n : ℤ) :
    |y - q| ≤ |y - n| ∧ (|y - q| = |y - n| → n = q ∨ q % 2 = 0) := by
  by_cases hn : n = q
  · subst hn
    simp
  · have hsep : (1 : ℝ) ≤ |(n : ℝ) - q| := by
      have : (1 : ℤ) ≤ |n - q| := Int.one_le_abs (sub_ne_zero.mpr hn)
      exact_mod_cast this
    have htri : |(n : ℝ) - q| ≤ |y - n| + |y - q| := by
      rw [abs_sub_comm y n]
      calc |(n : ℝ) - q| = |(n - y) + (y - q)| := by ring_nf
        _ ≤ |n - y| + |y - q| := abs_add_le _ _
    have hle := h.1
    exact ⟨by linarith, fun he => .inr (h.2 (by linarith))⟩

theorem IsRounding.isNearest {r : ℝ} {t : ℤ} {q : ℕ} (h : IsRounding r t q) (hfin : placed t q < infMag) :
    IsNearest r (pack false (placed t q)) := by
  have hg : placed t q < 2 ^ 31 := by simp only [infMag] at hfin; omega
  have ht : (0 : ℝ) < 2 ^ t := by positivity
  have hvalue : (value (pack false (placed t q)) : ℝ) = q * 2 ^ t := by
    rw [value_pack_placed h.lowest h.le h.normal_significand hfin]
    push_cast
    rfl
  have hdist (u : ℝ) : |u * 2 ^ t - r| = |r / 2 ^ t - u| * 2 ^ t := by
    rw [← abs_of_pos ht, ← abs_mul, abs_of_pos ht, sub_mul, div_mul_cancel₀ _ ht.ne', abs_sub_comm]
  refine ⟨by rw [isFinite_iff, magBits_pack _ hg]; exact hfin, fun w _ => ?_⟩
  obtain ⟨u, hw, hu⟩ := value_eq_mul_zpow w t
  rw [hvalue, hw, hdist, hdist]
  rcases hu with ⟨n, rfl⟩ | ⟨hnormal, hsmall⟩
  · obtain ⟨hle, htie⟩ := h.halfEven.nearest n
    refine ⟨by gcongr, fun he => ?_⟩
    rcases htie (mul_right_cancel₀ ht.ne' he) with rfl | heven
    · left
      have : (value w : ℝ) = value (pack false (placed t q)) := by rw [hw, hvalue]; norm_cast
      exact_mod_cast this
    · exact .inr (mant_pack_placed_even h.lowest h.le h.normal_significand hfin heven)
  · -- `2 ^ 23` last places are between `w` and `r`.
    have hle := (h.halfEven.nearest (2 ^ 23)).1
    have hbig : 2 ^ 23 ≤ r / 2 ^ t := h.normal.resolve_left hnormal
    have hlt : |r / 2 ^ t - q| < |r / 2 ^ t - u| := by
      rw [Int.cast_pow, Int.cast_ofNat, abs_of_nonneg (sub_nonneg.mpr hbig)] at hle
      exact lt_of_le_of_lt hle (lt_of_lt_of_le (by linarith) (le_abs_self _))
    have hlt' : |r / 2 ^ t - q| * 2 ^ t < |r / 2 ^ t - u| * 2 ^ t := by gcongr
    exact ⟨hlt'.le, fun he => absurd he hlt'.ne⟩

/-- The tie below `2 ^ 24` goes up to it, since `2 ^ 24` is the even one. -/
theorem IsHalfEven.lt_two_pow_iff {q : ℕ} {y : ℝ} (h : IsHalfEven q y) : q < 2 ^ 24 ↔ y < 2 ^ 24 - 1 / 2 := by
  obtain ⟨hnear, htie⟩ := h
  have habs := abs_le.mp hnear
  constructor
  · intro hlt
    have hq : (q : ℝ) + 1 ≤ 2 ^ 24 := by exact_mod_cast hlt
    refine lt_of_le_of_ne (by linarith) fun he => ?_
    have hqe : (q : ℝ) + 1 = 2 ^ 24 := by linarith
    have hqe' : q + 1 = 2 ^ 24 := by exact_mod_cast hqe
    have heven := htie (by rw [he, show (2 : ℝ) ^ 24 - 1 / 2 - q = 1 / 2 by linarith, abs_of_pos (by norm_num)])
    omega
  · intro hlt
    have : (q : ℝ) < 2 ^ 24 := by linarith
    exact_mod_cast this

/-- A rounded number is below the pattern of infinity exactly when it is below the halfway point of the largest finite
number and `2 ^ 128`; at that point the tie goes to the even `2 ^ 128`. -/
theorem IsRounding.placed_lt_iff {r : ℝ} {t : ℤ} {q : ℕ} (h : IsRounding r t q) :
    placed t q < infMag ↔ r < 2 ^ 128 - 2 ^ 103 := by
  have hq := h.le
  have hn := h.normal_significand
  have hlow := h.lowest
  have hr : r = r / 2 ^ t * 2 ^ t := by field_simp
  rcases lt_trichotomy t 104 with ht | rfl | ht
  · have hp : (2 : ℝ) ^ t ≤ 2 ^ 103 := by
      rw [← zpow_natCast]
      exact zpow_le_zpow_right₀ one_le_two (by omega)
    have hlt : r < 2 ^ 127 := by
      have := h.lt
      calc r = r / 2 ^ t * 2 ^ t := hr
        _ < 2 ^ 24 * 2 ^ t := by gcongr
        _ ≤ 2 ^ 24 * 2 ^ 103 := by gcongr
        _ = 2 ^ 127 := by norm_num
    refine iff_of_true ?_ (by linarith)
    unfold placed
    simp only [infMag]
    omega
  · have hhalf := h.halfEven
    generalize r / 2 ^ (104 : ℤ) = y at hr hhalf
    have hlt_iff : placed 104 q < infMag ↔ q < 2 ^ 24 := by
      unfold placed
      simp only [infMag]
      omega
    have hr_iff : r < 2 ^ 128 - 2 ^ 103 ↔ y < 2 ^ 24 - 1 / 2 := by
      rw [hr]
      norm_num
      constructor <;> intro h <;> linarith
    rw [hlt_iff, hr_iff]
    exact hhalf.lt_two_pow_iff
  · have hp : (2 : ℝ) ^ 105 ≤ 2 ^ t := by
      rw [← zpow_natCast]
      exact zpow_le_zpow_right₀ one_le_two (by omega)
    have hbig : 2 ^ 23 ≤ r / 2 ^ t := h.normal.resolve_left (by omega)
    have hge : 2 ^ 128 ≤ r := by
      calc (2 : ℝ) ^ 128 = 2 ^ 23 * 2 ^ 105 := by norm_num
        _ ≤ r / 2 ^ t * 2 ^ t := by gcongr
        _ = r := hr.symm
    refine iff_of_false ?_ (by linarith)
    unfold placed
    simp only [infMag]
    omega

theorem IsRounding.isRounded {r : ℝ} {t : ℤ} {q : ℕ} (h : IsRounding r t q) :
    IsRounded r (pack false (min (placed t q) infMag)) := by
  refine ⟨fun hr => ?_, fun hr => ?_, fun hr => ?_⟩
  · have hfin := h.placed_lt_iff.mpr (lt_of_le_of_lt (le_abs_self r) hr)
    rw [min_eq_left hfin.le]
    exact h.isNearest hfin
  · have hinf : ¬ placed t q < infMag := fun hlt => absurd (h.placed_lt_iff.mp hlt) (by linarith)
    rw [min_eq_right (by omega), posInf_eq_pack]
  · have := h.nonneg
    norm_num at hr
    linarith

theorem isRounded_zero (s : Bool) : IsRounded 0 (pack s 0) := by
  have h0 : value (pack s 0) = 0 := by
    rw [value_eq_zero_iff, feq0_iff_magBits, magBits_pack _ (by decide)]
  refine ⟨fun _ => ⟨?_, fun w _ => ?_⟩, fun h => ?_, fun h => ?_⟩
  · rw [isFinite_iff, magBits_pack _ (by decide)]
    decide
  · rw [h0]
    simp only [Rat.cast_zero, sub_zero, abs_zero]
    exact ⟨abs_nonneg _, fun he => .inl (by simpa using he.symm)⟩
  · norm_num at h
  · norm_num at h

theorem roundMag_le (m : ℕ) (e : ℤ) : roundMag m e ≤ infMag := by
  unfold roundMag
  split
  · decide
  · exact min_le_right _ _

/-- `roundMag` rounds every number that its significand stands for. -/
theorem StandsFor.isRounded {m : ℕ} {y : ℝ} (h : StandsFor m y) (e : ℤ) :
    IsRounded (y * 2 ^ e) (pack false (roundMag m e)) := by
  by_cases hm : m = 0
  · subst hm
    have hy : y = 0 := by
      rcases h with rfl | ⟨hbig, -, -⟩
      · simp
      · omega
    rw [hy, zero_mul]
    exact isRounded_zero false
  · rw [roundMag_eq hm]
    exact (h.isRounding hm e).isRounded

theorem IsNearest.neg {r : ℝ} {z : F32} (h : IsNearest r z) : IsNearest (-r) (fneg z) := by
  refine ⟨by rw [isFinite_fneg]; exact h.1, fun w hw => ?_⟩
  have hdist (v : ℝ) : |-v - r| = |v - -r| := by rw [← abs_neg]; ring_nf
  have hflip (v : ℝ) : |-v - -r| = |v - r| := by rw [← abs_neg]; ring_nf
  have hnear := h.2 (fneg w) (by rw [isFinite_fneg]; exact hw)
  simp only [value_fneg, Rat.cast_neg, mant_fneg, hflip, hdist] at hnear ⊢
  refine ⟨hnear.1, fun he => (hnear.2 he).imp_left fun hv => ?_⟩
  rw [← hv, neg_neg]

theorem IsRounded.neg {r : ℝ} {z : F32} (h : IsRounded r z) : IsRounded (-r) (fneg z) := by
  obtain ⟨hfin, hpos, hneg⟩ := h
  refine ⟨fun hr => (hfin (by rwa [abs_neg] at hr)).neg, fun hr => ?_, fun hr => ?_⟩
  · rw [hneg (by linarith)]
    decide
  · rw [hpos (by linarith)]
    decide

/-- The sign of a result is put on its rounded magnitude. -/
theorem IsRounded.signed {r : ℝ} {g : ℕ} (h : IsRounded r (pack false g)) (hg : g ≤ infMag) (s : Bool) :
    IsRounded (if s then -r else r) (pack s g) := by
  cases s
  · exact h
  · have hg' : g < 2 ^ 31 := lt_of_le_of_lt hg (by decide)
    rw [show pack true g = fneg (pack false g) from (fneg_pack false hg').symm]
    exact h.neg

end Sys2Proof.F32
end

section
/-! Each operation of R12 on finite operands is one rounding of its exact result: what it hands to `roundMag` stands for
the magnitude of that result. -/

namespace Sys2Proof.F32

/-! ## Addition and subtraction -/

/-- The exact sum over the lower of the two last places, as `addFinite` forms it. -/
def alignedSum (x y : F32) : ℤ :=
  smant x * 2 ^ (expo x - min (expo x) (expo y)).toNat + smant y * 2 ^ (expo y - min (expo x) (expo y)).toNat

theorem addFinite_eq (x y : F32) :
    addFinite x y = if alignedSum x y = 0 then pack (sign x && sign y) 0
      else pack (decide (alignedSum x y < 0)) (roundMag (alignedSum x y).natAbs (min (expo x) (expo y))) := rfl

theorem value_add_value (x y : F32) : value x + value y = alignedSum x y * 2 ^ min (expo x) (expo y) := by
  have hscale (e : ℤ) (h : min (expo x) (expo y) ≤ e) :
      (2 : ℚ) ^ (e - min (expo x) (expo y)).toNat * 2 ^ min (expo x) (expo y) = 2 ^ e := by
    rw [← zpow_natCast, Int.toNat_of_nonneg (by omega), ← zpow_add₀ two_ne_zero, sub_add_cancel]
  rw [alignedSum]
  push_cast
  rw [add_mul, mul_assoc, mul_assoc, hscale _ (min_le_left _ _), hscale _ (min_le_right _ _), value, value]

theorem addFinite_isRounded (x y : F32) : IsRounded (value x + value y) (addFinite x y) := by
  have hsum : (value x + value y : ℝ) = alignedSum x y * 2 ^ min (expo x) (expo y) := by
    rw [← Rat.cast_add, value_add_value]
    push_cast
    rfl
  rw [hsum, addFinite_eq]
  split
  next h0 =>
    rw [h0, Int.cast_zero, zero_mul]
    exact isRounded_zero _
  next =>
    have hround := (StandsFor.isRounded (.inl rfl) (min (expo x) (expo y))).signed
      (roundMag_le (alignedSum x y).natAbs _) (decide (alignedSum x y < 0))
    have hsign : (if decide (alignedSum x y < 0) then -(((alignedSum x y).natAbs : ℝ) * 2 ^ min (expo x) (expo y))
        else ((alignedSum x y).natAbs : ℝ) * 2 ^ min (expo x) (expo y)) = alignedSum x y * 2 ^ min (expo x) (expo y) := by
      rw [Nat.cast_natAbs, Int.cast_abs]
      by_cases hneg : alignedSum x y < 0
      · have : (alignedSum x y : ℝ) < 0 := by exact_mod_cast hneg
        simp [hneg, abs_of_neg this]
      · have : (0 : ℝ) ≤ alignedSum x y := by exact_mod_cast not_lt.mp hneg
        simp [hneg, abs_of_nonneg this]
    rwa [hsign] at hround

theorem fadd_of_isFinite {x y : F32} (hx : isFinite x = true) (hy : isFinite y = true) : fadd x y = addFinite x y := by
  simp [fadd, addNumber, isNaN_of_isFinite, isInf_of_isFinite, hx, hy]

theorem fsub_of_isFinite {x y : F32} (hx : isFinite x = true) (hy : isFinite y = true) :
    fsub x y = addFinite x (fneg y) := by
  simp [fsub, addNumber, isNaN_of_isFinite, isInf_of_isFinite, hx, hy]

/-! ## Multiplication -/

theorem fmul_of_isFinite {x y : F32} (hx : isFinite x = true) (hy : isFinite y = true) :
    fmul x y = pack (sign x != sign y) (roundMag (mant x * mant y) (expo x + expo y)) := by
  simp [fmul, isNaN_of_isFinite, isInf_of_isFinite, hx, hy]

/-- The value as a real number, its sign apart. -/
theorem cast_value_eq (x : F32) :
    (value x : ℝ) = if sign x then -((mant x : ℝ) * 2 ^ expo x) else (mant x : ℝ) * 2 ^ expo x := by
  rw [value_eq]
  split <;> push_cast <;> rfl

theorem fmul_isRounded {x y : F32} (hx : isFinite x = true) (hy : isFinite y = true) :
    IsRounded (value x * value y) (fmul x y) := by
  have hround := (StandsFor.isRounded (.inl rfl) (expo x + expo y)).signed
    (roundMag_le (mant x * mant y) _) (sign x != sign y)
  have hprod : ((mant x * mant y : ℕ) : ℝ) * 2 ^ (expo x + expo y) = (mant x * 2 ^ expo x) * (mant y * 2 ^ expo y) := by
    rw [zpow_add₀ two_ne_zero]
    push_cast
    ring
  rw [fmul_of_isFinite hx hy, cast_value_eq, cast_value_eq]
  rw [hprod] at hround
  cases hsx : sign x <;> cases hsy : sign y <;> simpa [hsx, hsy] using hround

/-! ## Division and the square root: a truncated result and a bit that says whether it is inexact -/

/-- Twice a truncated result with the sticky bit stands for twice the exact result, where the truncated result has bits
enough. -/
theorem standsFor_of_truncated {a : ℕ} {y : ℝ} {p : Prop} [Decidable p] (hle : a ≤ y) (hlt : y < a + 1)
    (hp : p ↔ y = a) (hbig : p ∨ 2 ^ 24 ≤ a) : StandsFor (2 * a + if p then 0 else 1) (2 * y) := by
  by_cases h : p
  · left
    rw [hp.mp h, if_pos h]
    push_cast
    ring
  · right
    have hlt' : (a : ℝ) < y := lt_of_le_of_ne hle fun he => h (hp.mpr he.symm)
    have ha := hbig.resolve_left h
    rw [if_neg h]
    refine ⟨by omega, by omega, ?_⟩
    push_cast
    rw [abs_lt]
    constructor <;> linarith

theorem quotient_standsFor {m n : ℕ} (hn : n ≠ 0) (hn' : n < 2 ^ 24) :
    StandsFor (quotient m n) (2 * ((m * 2 ^ 64 : ℕ) / n : ℝ)) := by
  have hn0 : (0 : ℝ) < n := by exact_mod_cast Nat.pos_of_ne_zero hn
  have hfloor : ⌊((m * 2 ^ 64 : ℕ) / n : ℝ)⌋₊ = m * 2 ^ 64 / n := Nat.floor_div_eq_div _ _
  have hle : ((m * 2 ^ 64 / n : ℕ) : ℝ) ≤ (m * 2 ^ 64 : ℕ) / n := hfloor ▸ Nat.floor_le (by positivity)
  have hlt : ((m * 2 ^ 64 : ℕ) / n : ℝ) < (m * 2 ^ 64 / n : ℕ) + 1 := hfloor ▸ Nat.lt_floor_add_one _
  refine standsFor_of_truncated hle hlt ?_ ?_
  · rw [div_eq_iff hn0.ne', ← Nat.dvd_iff_mod_eq_zero]
    norm_cast
    exact ⟨fun h => (Nat.div_mul_cancel h).symm, fun h => Dvd.intro_left _ h.symm⟩
  · rcases Nat.eq_zero_or_pos m with rfl | hm
    · simp
    · right
      rw [Nat.le_div_iff_mul_le (Nat.pos_of_ne_zero hn)]
      calc 2 ^ 24 * n ≤ 2 ^ 24 * 2 ^ 24 := by gcongr
        _ ≤ 1 * 2 ^ 64 := by norm_num
        _ ≤ m * 2 ^ 64 := by gcongr; exact hm

theorem fdiv_of_isFinite {x y : F32} (hx : isFinite x = true) (hy : isFinite y = true) (h0 : feq0 y = false) :
    fdiv x y = pack (sign x != sign y) (roundMag (quotient (mant x) (mant y)) (expo x - expo y - 65)) := by
  simp [fdiv, isNaN_of_isFinite, isInf_of_isFinite, hx, hy, h0]

theorem fdiv_isRounded {x y : F32} (hx : isFinite x = true) (hy : isFinite y = true) (h0 : feq0 y = false) :
    IsRounded (value x / value y) (fdiv x y) := by
  have hm : mant y ≠ 0 := fun h => by simp [mant_eq_zero_iff.mp h] at h0
  have hround := ((quotient_standsFor (m := mant x) hm (mant_lt y)).isRounded (expo x - expo y - 65)).signed
    (roundMag_le _ _) (sign x != sign y)
  have hquot : 2 * ((mant x * 2 ^ 64 : ℕ) / mant y : ℝ) * 2 ^ (expo x - expo y - 65) =
      (mant x * 2 ^ expo x) / (mant y * 2 ^ expo y) := by
    rw [zpow_sub₀ two_ne_zero, zpow_sub₀ two_ne_zero]
    push_cast
    norm_num
    field_simp
    ring
  rw [fdiv_of_isFinite hx hy h0, cast_value_eq, cast_value_eq]
  rw [hquot] at hround
  cases hsx : sign x <;> cases hsy : sign y <;> simpa [hsx, hsy, neg_div, div_neg] using hround

/-- `isqrtFrom` keeps the root between what it has and what the bits left to try can add. -/
theorem isqrtFrom_spec (n : ℕ) {k r : ℕ} (hlo : r * r ≤ n) (hhi : n < (r + 2 ^ k) * (r + 2 ^ k)) :
    isqrtFrom n k r = Nat.sqrt n := by
  induction k generalizing r with
  | zero => exact Nat.eq_sqrt.mpr ⟨hlo, hhi⟩
  | succ k ih =>
    rw [isqrtFrom]
    have hpow : 2 ^ (k + 1) = 2 ^ k + 2 ^ k := by ring
    split
    next h => exact ih h (by rwa [hpow, ← add_assoc] at hhi)
    next h => exact ih hlo (not_le.mp h)

theorem isqrt_eq_sqrt {n : ℕ} (h : n < 2 ^ 96) : isqrt n = Nat.sqrt n :=
  isqrtFrom_spec n (Nat.zero_le _) (by norm_num at h ⊢; exact h)

theorem rootOf_standsFor {n : ℕ} (hlo : 2 ^ 48 ≤ n) (hhi : n < 2 ^ 96) : StandsFor (rootOf n) (2 * Real.sqrt n) := by
  have hroot : rootOf n = 2 * Nat.sqrt n + if Nat.sqrt n * Nat.sqrt n = n then 0 else 1 := by
    rw [rootOf, isqrt_eq_sqrt hhi]
  rw [hroot]
  refine standsFor_of_truncated Real.nat_sqrt_le_real_sqrt Real.real_sqrt_lt_nat_sqrt_succ ?_ (.inr ?_)
  · rw [Real.sqrt_eq_iff_mul_self_eq (by positivity) (by positivity)]
    norm_cast
    exact eq_comm
  · exact Nat.le_sqrt.mpr (le_trans (by norm_num) hlo)

/-- The scale that makes the exponent of the radicand even. -/
def rootShift (x : F32) : ℕ := if expo x % 2 = 0 then 64 else 65

theorem fsqrt_of_pos {x : F32} (hx : isFinite x = true) (h0 : feq0 x = false) (hs : sign x = false) :
    fsqrt x = pack false (roundMag (rootOf (mant x * 2 ^ rootShift x)) ((expo x - rootShift x) / 2 - 1)) := by
  simp [fsqrt, isNaN_of_isFinite, isInf_of_isFinite, hx, h0, hs, rootShift]

theorem sqrt_value_eq {x : F32} (hs : sign x = false) :
    Real.sqrt (value x) = 2 * Real.sqrt (mant x * 2 ^ rootShift x : ℕ) * 2 ^ ((expo x - rootShift x) / 2 - 1) := by
  obtain ⟨j, hj⟩ : ∃ j : ℤ, expo x = rootShift x + 2 * j :=
    ⟨(expo x - rootShift x) / 2, by unfold rootShift; split <;> omega⟩
  have hdiv : (expo x - rootShift x) / 2 = j := by omega
  have hsq : (value x : ℝ) = (mant x * 2 ^ rootShift x : ℕ) * ((2 : ℝ) ^ j) ^ 2 := by
    rw [cast_value_eq, hs, if_neg (by decide), hj, zpow_add₀ two_ne_zero, mul_comm 2 j, zpow_mul]
    push_cast
    rw [mul_assoc, zpow_natCast, zpow_ofNat]
  rw [hsq, Real.sqrt_mul (by positivity), Real.sqrt_sq (by positivity), hdiv, zpow_sub_one₀ two_ne_zero]
  ring

theorem fsqrt_isNearest {x : F32} (hx : isFinite x = true) (hs : sign x = false) :
    IsNearest (Real.sqrt (value x)) (fsqrt x) := by
  cases h0 : feq0 x
  · have hm : mant x ≠ 0 := fun h => by simp [mant_eq_zero_iff.mp h] at h0
    have hlo : 2 ^ 48 ≤ mant x * 2 ^ rootShift x :=
      calc 2 ^ 48 ≤ 1 * 2 ^ 64 := by norm_num
        _ ≤ mant x * 2 ^ rootShift x :=
          Nat.mul_le_mul (by omega) (Nat.pow_le_pow_right two_pos (by unfold rootShift; split <;> omega))
    have hhi : mant x * 2 ^ rootShift x < 2 ^ 96 :=
      calc mant x * 2 ^ rootShift x ≤ mant x * 2 ^ 65 :=
            Nat.mul_le_mul_left _ (Nat.pow_le_pow_right two_pos (by unfold rootShift; split <;> omega))
        _ < 2 ^ 24 * 2 ^ 65 := by gcongr; exact mant_lt x
        _ < 2 ^ 96 := by norm_num
    have hround := (rootOf_standsFor hlo hhi).isRounded ((expo x - rootShift x) / 2 - 1)
    rw [← sqrt_value_eq hs, ← fsqrt_of_pos hx h0 hs] at hround
    refine hround.1 ?_
    have hvalue : (value x : ℝ) < 2 ^ 128 := by
      have h1 := abs_value_lt (expo_le hx)
      have h2 : value x < 2 ^ 128 := lt_of_le_of_lt (le_abs_self _) (by exact_mod_cast h1)
      exact_mod_cast h2
    rw [abs_of_nonneg (Real.sqrt_nonneg _)]
    calc Real.sqrt (value x) ≤ Real.sqrt ((2 ^ 64) ^ 2) := Real.sqrt_le_sqrt (by norm_num at hvalue ⊢; exact hvalue.le)
      _ = 2 ^ 64 := Real.sqrt_sq (by positivity)
      _ < 2 ^ 128 - 2 ^ 103 := by norm_num
  · have hv := value_eq_zero_iff.mpr h0
    have hroot : fsqrt x = x := by simp [fsqrt, isNaN_of_isFinite hx, h0]
    rw [hroot, hv, Rat.cast_zero, Real.sqrt_zero]
    have hz : x = pack false 0 := (pack_eq_iff _ (by decide)).mpr ⟨hs, feq0_iff_magBits.mp h0⟩
    rw [hz]
    exact (isRounded_zero false).1 (by norm_num)

/-- Settles O59: each operation hands `roundMag` a significand that stands for its exact result, and `roundMag` rounds
what its significand stands for (`StandsFor.isRounded`). -/
theorem roundedOnce : Obligations.RoundedOnce := by
  refine ⟨fun x y hx hy => ⟨?_, ?_, fmul_isRounded hx hy, fdiv_isRounded hx hy⟩, fun x => fsqrt_isNearest⟩
  · rw [fadd_of_isFinite hx hy]
    exact addFinite_isRounded x y
  · rw [fsub_of_isFinite hx hy, sub_eq_add_neg, ← Rat.cast_neg, ← value_fneg]
    exact addFinite_isRounded x (fneg y)

end Sys2Proof.F32
end

section
/-! The operands that are not finite, the zeros, the comparisons and the conversions (00_scope R12). A pattern is a sign
and a magnitude (`eq_of_sign_of_magBits`), so each result is read off the branch of the operation that the operands take. -/

namespace Sys2Proof.F32

/-! ## NaN operands -/

theorem isNaN_fadd {x y : F32} (h : isNaN x = true ∨ isNaN y = true) : isNaN (fadd x y) = true := by
  rcases h with h | h <;> simp [fadd, h]

theorem isNaN_fsub {x y : F32} (h : isNaN x = true ∨ isNaN y = true) : isNaN (fsub x y) = true := by
  rcases h with h | h <;> simp [fsub, h]

theorem isNaN_fmul {x y : F32} (h : isNaN x = true ∨ isNaN y = true) : isNaN (fmul x y) = true := by
  rcases h with h | h <;> simp [fmul, h]

theorem isNaN_fdiv {x y : F32} (h : isNaN x = true ∨ isNaN y = true) : isNaN (fdiv x y) = true := by
  rcases h with h | h <;> simp [fdiv, h]

theorem isNaN_fsqrt {x : F32} (h : isNaN x = true) : isNaN (fsqrt x) = true := by simp [fsqrt, h]

theorem flt_of_isNaN {x y : F32} (h : isNaN x = true ∨ isNaN y = true) : flt x y = false := by
  rcases h with h | h <;> simp [flt, h]

theorem fle_of_isNaN {x y : F32} (h : isNaN x = true ∨ isNaN y = true) : fle x y = false := by
  rcases h with h | h <;> simp [fle, h]

/-! ## Infinities -/

theorem fadd_self_of_isInf {x : F32} (h : isInf x = true) : fadd x x = x := by
  simp [fadd, addNumber, isNaN_of_isInf h, h]

theorem isNaN_fadd_fneg_of_isInf {x : F32} (h : isInf x = true) : isNaN (fadd x (fneg x)) = true := by
  simp [fadd, addNumber, isNaN_of_isInf h, h]

theorem isNaN_fsub_self_of_isInf {x : F32} (h : isInf x = true) : isNaN (fsub x x) = true := by
  simp [fsub, addNumber, isNaN_of_isInf h, h]

theorem fsub_fneg_of_isInf {x : F32} (h : isInf x = true) : fsub x (fneg x) = x := by
  simp [fsub, addNumber, isNaN_of_isInf h, h]

section
variable {x y : F32} (hx : isInf x = true) (hy : isFinite y = true)
include hx hy

theorem fadd_isInf_isFinite : fadd x y = x := by
  simp [fadd, addNumber, isNaN_of_isInf hx, isNaN_of_isFinite hy, hx, isInf_of_isFinite hy]

theorem fadd_isFinite_isInf : fadd y x = x := by
  simp [fadd, addNumber, isNaN_of_isInf hx, isNaN_of_isFinite hy, hx, isInf_of_isFinite hy]

theorem fsub_isInf_isFinite : fsub x y = x := by
  simp [fsub, addNumber, isNaN_of_isInf hx, isNaN_of_isFinite hy, hx, isInf_of_isFinite hy]

theorem fsub_isFinite_isInf : fsub y x = fneg x := by
  simp [fsub, addNumber, isNaN_of_isInf hx, isNaN_of_isFinite hy, hx, isInf_of_isFinite hy]

theorem fdiv_isInf_isFinite : fdiv x y = pack (sign x != sign y) infMag := by
  simp [fdiv, isNaN_of_isInf hx, isNaN_of_isFinite hy, hx, isInf_of_isFinite hy]

theorem fdiv_isFinite_isInf : fdiv y x = pack (sign y != sign x) 0 := by
  simp [fdiv, isNaN_of_isInf hx, isNaN_of_isFinite hy, hx, isInf_of_isFinite hy]

end

theorem feq0_of_isInf {x : F32} (h : isInf x = true) : feq0 x = false := by
  rw [← Bool.not_eq_true]
  intro h0
  simp [isInf_of_isFinite (isFinite_of_feq0 h0)] at h

theorem fmul_isInf_nonzero {x y : F32} (hx : isInf x = true) (hy : isNaN y = false) (h0 : feq0 y = false) :
    fmul x y = pack (sign x != sign y) infMag ∧ fmul y x = pack (sign x != sign y) infMag := by
  simp [fmul, isNaN_of_isInf hx, hx, hy, h0, feq0_of_isInf hx, Bool.xor_comm]

theorem isNaN_fmul_isInf_zero {x y : F32} (hx : isInf x = true) (h0 : feq0 y = true) :
    isNaN (fmul x y) = true ∧ isNaN (fmul y x) = true := by
  simp [fmul, hx, h0]

theorem isNaN_fdiv_isInf_isInf {x y : F32} (hx : isInf x = true) (hy : isInf y = true) : isNaN (fdiv x y) = true := by
  simp [fdiv, hx, hy]

/-- The infinity of a product or a quotient, positive where the signs agree. -/
theorem pack_bne_infMag (a b : Bool) : pack (a != b) infMag = if a = b then 0x7F800000#32 else 0xFF800000#32 := by
  revert a b
  decide

theorem pack_bne_zero (a b : Bool) : pack (a != b) 0 = if a = b then 0x00000000#32 else 0x80000000#32 := by
  revert a b
  decide

/-! ## Zeros -/

theorem isNaN_fdiv_zero_zero {x y : F32} (hx : feq0 x = true) (hy : feq0 y = true) : isNaN (fdiv x y) = true := by
  simp [fdiv, hx, hy, isInf_of_isFinite (isFinite_of_feq0 hx), isInf_of_isFinite (isFinite_of_feq0 hy)]

theorem fdiv_isFinite_zero {x y : F32} (hx : isFinite x = true) (h0 : feq0 x = false) (hy : feq0 y = true) :
    fdiv x y = pack (sign x != sign y) infMag := by
  have hy' := isFinite_of_feq0 hy
  simp [fdiv, isNaN_of_isFinite, isInf_of_isFinite, hx, hy', h0, hy]

/-- The sum of two numbers is zero when they are opposite; it is negative zero when both addends are. -/
theorem addFinite_of_value_add_eq_zero {x y : F32} (h : value x + value y = 0) :
    addFinite x y = if x = 0x80000000#32 ∧ y = 0x80000000#32 then 0x80000000#32 else 0x00000000#32 := by
  have hsum : alignedSum x y = 0 := by
    rw [value_add_value, mul_eq_zero, Int.cast_eq_zero] at h
    exact h.resolve_right (by positivity)
  have hneg : (sign x && sign y) = true ↔ x = 0x80000000#32 ∧ y = 0x80000000#32 := by
    rw [negZero_eq_pack, pack_eq_iff _ (by decide), pack_eq_iff _ (by decide), Bool.and_eq_true]
    refine ⟨fun ⟨hx, hy⟩ => ?_, fun ⟨hx, hy⟩ => ⟨hx.1, hy.1⟩⟩
    have hx0 := abs_nonneg (value x)
    have hy0 := abs_nonneg (value y)
    rw [value_eq_sign_abs x, value_eq_sign_abs y, hx, hy, if_pos rfl, if_pos rfl] at h
    have hvx : value x = 0 := abs_eq_zero.mp (by linarith)
    have hvy : value y = 0 := abs_eq_zero.mp (by linarith)
    rw [value_eq_zero_iff, feq0_iff_magBits] at hvx hvy
    exact ⟨⟨hx, hvx⟩, ⟨hy, hvy⟩⟩
  rw [addFinite_eq, if_pos hsum]
  simp only [← hneg]
  cases (sign x && sign y) <;> decide

theorem fneg_eq_negZero_iff {x : F32} : fneg x = 0x80000000#32 ↔ x = 0x00000000#32 := by
  rw [negZero_eq_pack, posZero_eq_pack, pack_eq_iff _ (by decide), pack_eq_iff _ (by decide), sign_fneg, magBits_fneg,
    Bool.not_eq_true', ← Bool.not_eq_true]

theorem fadd_of_value_add_eq_zero {x y : F32} (hx : isFinite x = true) (hy : isFinite y = true)
    (h : value x + value y = 0) :
    fadd x y = if x = 0x80000000#32 ∧ y = 0x80000000#32 then 0x80000000#32 else 0x00000000#32 := by
  rw [fadd_of_isFinite hx hy, addFinite_of_value_add_eq_zero h]

theorem fsub_of_value_eq {x y : F32} (hx : isFinite x = true) (hy : isFinite y = true) (h : value x = value y) :
    fsub x y = if x = 0x80000000#32 ∧ y = 0x00000000#32 then 0x80000000#32 else 0x00000000#32 := by
  rw [fsub_of_isFinite hx hy, addFinite_of_value_add_eq_zero (by rw [value_fneg, h, add_neg_cancel])]
  simp only [fneg_eq_negZero_iff]

theorem fsub_self {x : F32} (hx : isFinite x = true) : fsub x x = 0x00000000#32 := by
  rw [fsub_of_value_eq hx hx rfl, if_neg]
  rintro ⟨rfl, h⟩
  exact absurd h (by decide)

theorem sign_pack_roundMag (s : Bool) (m : ℕ) (e : ℤ) : sign (pack s (roundMag m e)) = s :=
  sign_pack s (lt_of_le_of_lt (roundMag_le m e) (by decide))

theorem sign_fmul {x y : F32} (hx : isFinite x = true) (hy : isFinite y = true) :
    sign (fmul x y) = (sign x != sign y) := by
  rw [fmul_of_isFinite hx hy, sign_pack_roundMag]

theorem sign_fdiv {x y : F32} (hx : isFinite x = true) (hy : isFinite y = true) (h0 : feq0 y = false) :
    sign (fdiv x y) = (sign x != sign y) := by
  rw [fdiv_of_isFinite hx hy h0, sign_pack_roundMag]

theorem isNaN_fsqrt_of_neg {x : F32} (hs : sign x = true) (h0 : feq0 x = false) : isNaN (fsqrt x) = true := by
  simp [fsqrt, hs, h0]

/-! ## Comparisons -/

theorem flt_iff {x y : F32} (hx : isNaN x = false) (hy : isNaN y = false) : flt x y = true ↔ rank x < rank y := by
  simp [flt, hx, hy]

theorem fle_iff {x y : F32} (hx : isNaN x = false) (hy : isNaN y = false) : fle x y = true ↔ rank x ≤ rank y := by
  simp [fle, hx, hy]

/-- The ranks of numbers run from the one infinity to the other, and only the infinities have theirs. -/
theorem rank_mem {y : F32} (h : isNaN y = false) :
    -(infMag : ℤ) ≤ rank y ∧ rank y ≤ infMag ∧ (rank y < infMag ↔ y ≠ 0x7F800000#32) ∧
      (-(infMag : ℤ) < rank y ↔ y ≠ 0xFF800000#32) := by
  have hmag : magBits y ≤ infMag := by simpa [isNaN_eq] using h
  have hpos : (0 : ℤ) < infMag := by decide
  rw [ne_eq, ne_eq, posInf_eq_pack, negInf_eq_pack, pack_eq_iff _ (by decide), pack_eq_iff _ (by decide), rank]
  cases sign y <;> simp <;> omega

theorem fcompare_infinities {y : F32} (h : isNaN y = false) :
    fle y 0x7F800000#32 = true ∧ fle 0xFF800000#32 y = true ∧ fge 0x7F800000#32 y = true ∧
      fge y 0xFF800000#32 = true ∧ (flt y 0x7F800000#32 = true ↔ y ≠ 0x7F800000#32) ∧
      (flt 0xFF800000#32 y = true ↔ y ≠ 0xFF800000#32) := by
  obtain ⟨hlo, hhi, hlt, hgt⟩ := rank_mem h
  have hpos : isNaN 0x7F800000#32 = false := by decide
  have hneg : isNaN 0xFF800000#32 = false := by decide
  have hpr : rank 0x7F800000#32 = infMag := by decide
  have hnr : rank 0xFF800000#32 = -(infMag : ℤ) := by decide
  have hle : fle y 0x7F800000#32 = true := by rwa [fle_iff h hpos, hpr]
  have hge : fle 0xFF800000#32 y = true := by rwa [fle_iff hneg h, hnr]
  refine ⟨hle, hge, hle, hge, ?_, ?_⟩
  · rw [flt_iff h hpos, hpr, hlt]
  · rw [flt_iff hneg h, hnr, hgt]

theorem fcompare_value {x y : F32} (hx : isFinite x = true) (hy : isFinite y = true) :
    (flt x y = true ↔ value x < value y) ∧ (fle x y = true ↔ value x ≤ value y) ∧
      (fge x y = true ↔ value y ≤ value x) := by
  have hx' := isNaN_of_isFinite hx
  have hy' := isNaN_of_isFinite hy
  rw [fge, flt_iff hx' hy', fle_iff hx' hy', fle_iff hy' hx', rank_lt_iff, rank_le_iff, rank_le_iff]
  exact ⟨Iff.rfl, Iff.rfl, Iff.rfl⟩

/-! ## Conversions -/

/-- Below `2 ^ 24` the last place is at most `2 ^ 0` and nothing is rounded. -/
theorem u2f_eq_pack_placed {n : ℕ} (hpos : 0 < n) (hlt : n < 2 ^ 24) :
    ∃ k : ℕ, u2f n = pack false (placed (-k) (n * 2 ^ k)) ∧ IsRounding n (-k) (n * 2 ^ k) ∧
      placed (-k) (n * 2 ^ k) < infMag := by
  have hlog : Nat.log2 n < 24 := (Nat.log2_lt hpos.ne').mpr hlt
  have hulp : ulpExp n 0 ≤ 0 := by unfold ulpExp; omega
  have hround := StandsFor.isRounding (.inl rfl) hpos.ne' 0
  rw [zpow_zero, mul_one] at hround
  have hfin : placed (ulpExp n 0) (significand n 0) < infMag := by
    have hn : (n : ℝ) < 2 ^ 24 := by exact_mod_cast hlt
    exact hround.placed_lt_iff.mpr (lt_trans hn (by norm_num))
  have hu : u2f n = pack false (placed (ulpExp n 0) (significand n 0)) := by
    rw [u2f, roundMag_eq hpos.ne', ← placed, min_eq_left hfin.le]
  refine ⟨(-ulpExp n 0).toNat, ?_⟩
  have hk : -((-ulpExp n 0).toNat : ℤ) = ulpExp n 0 := by omega
  have hq : significand n 0 = n * 2 ^ (-ulpExp n 0).toNat := by rw [significand, if_pos hulp, zero_sub]
  rw [hk, ← hq]
  exact ⟨hu, hround, hfin⟩

theorem u2f_exact {n : ℕ} (h : n ≤ 2 ^ 24) : isFinite (u2f n) = true ∧ value (u2f n) = n := by
  rcases Nat.eq_zero_or_pos n with rfl | hpos
  · exact ⟨by decide, by simpa using value_eq_zero_iff.mpr (show feq0 (u2f 0) = true by decide)⟩
  rcases h.lt_or_eq with hlt | rfl
  · obtain ⟨k, hu, hround, hfin⟩ := u2f_eq_pack_placed hpos hlt
    rw [hu]
    refine ⟨(hround.isNearest hfin).1, ?_⟩
    rw [value_pack_placed hround.lowest hround.le hround.normal_significand hfin, zpow_neg, zpow_natCast]
    push_cast
    field_simp
  · have hu : u2f (2 ^ 24) = pack false (placed 1 (2 ^ 23)) := by decide
    rw [hu]
    refine ⟨by decide, ?_⟩
    rw [value_pack_placed (by decide) (by decide) (.inr le_rfl) (by decide)]
    norm_num

/-- An integer with the sign of `x` and the magnitude `⌊v⌋`: what both conversions give. -/
theorem signed_floor {x : F32} {v : ℚ} (hv : 0 ≤ v) {k : ℤ} (h : k = signed x ⌊v⌋₊) :
    (k.natAbs : ℚ) ≤ v ∧ v < k.natAbs + 1 ∧ 0 ≤ (k : ℚ) * value x := by
  have habs : k.natAbs = ⌊v⌋₊ := by
    rw [h, signed]
    split <;> simp
  refine ⟨habs ▸ Nat.floor_le hv, habs ▸ Nat.lt_floor_add_one v, ?_⟩
  have hfloor : (0 : ℚ) ≤ ⌊v⌋₊ := by positivity
  have hvalue := abs_nonneg (value x)
  rw [h, signed, value_eq_sign_abs]
  split
  · push_cast
    rw [neg_mul_neg]
    positivity
  · positivity

theorem zpow_eq_inv_pow_toNat {e : ℤ} (h : ¬ 0 ≤ e) : (2 : ℚ) ^ e = ((2 ^ (-e).toNat : ℕ) : ℚ)⁻¹ := by
  push_cast
  rw [← zpow_natCast, Int.toNat_of_nonneg (by omega), zpow_neg, inv_inv]

theorem zpow_eq_pow_toNat {e : ℤ} (h : 0 ≤ e) : (2 : ℚ) ^ e = ((2 ^ e.toNat : ℕ) : ℚ) := by
  push_cast
  rw [← zpow_natCast, Int.toNat_of_nonneg h]

theorem f2iTrunc_eq_floor {x : F32} (hx : isFinite x = true) : f2iTrunc x = some (signed x ⌊|value x|⌋₊) := by
  rw [f2iTrunc, hx, abs_value]
  by_cases he : 0 ≤ expo x
  · rw [zpow_eq_pow_toNat he, ← Nat.cast_mul, Nat.floor_natCast]
    simp [he]
  · rw [zpow_eq_inv_pow_toNat he, ← div_eq_mul_inv, Nat.floor_div_eq_div]
    simp [he]

theorem f2iRound_eq_floor {x : F32} (hx : isFinite x = true) : f2iRound x = some (signed x ⌊|value x| + 1 / 2⌋₊) := by
  rw [f2iRound, hx, abs_value]
  by_cases he : 0 ≤ expo x
  · have hfloor (n : ℕ) : ⌊(n : ℚ) + 1 / 2⌋₊ = n := by
      rw [add_comm, Nat.floor_add_natCast (by norm_num)]
      norm_num
    rw [zpow_eq_pow_toNat he, ← Nat.cast_mul, hfloor]
    simp [he]
  · have hhalf : 2 ^ (-expo x).toNat = 2 * 2 ^ ((-expo x).toNat - 1) := by rw [← pow_succ']; congr 1; omega
    have hsum : (mant x : ℚ) * ((2 ^ (-expo x).toNat : ℕ) : ℚ)⁻¹ + 1 / 2 =
        ((mant x + 2 ^ ((-expo x).toNat - 1) : ℕ) : ℚ) / (2 ^ (-expo x).toNat : ℕ) := by
      rw [hhalf]
      push_cast
      field_simp
    rw [zpow_eq_inv_pow_toNat he, hsum, Nat.floor_div_eq_div]
    simp [he]

theorem f2iTrunc_eq_none_iff {x : F32} : f2iTrunc x = none ↔ isFinite x = false := by simp [f2iTrunc]

theorem f2iRound_eq_none_iff {x : F32} : f2iRound x = none ↔ isFinite x = false := by simp [f2iRound]

theorem f2iTrunc_spec {x : F32} {k : ℤ} (h : f2iTrunc x = some k) :
    (k.natAbs : ℚ) ≤ |value x| ∧ |value x| < k.natAbs + 1 ∧ 0 ≤ (k : ℚ) * value x := by
  cases hx : isFinite x
  · simp [f2iTrunc_eq_none_iff.mpr hx] at h
  · rw [f2iTrunc_eq_floor hx, Option.some.injEq] at h
    exact signed_floor (abs_nonneg _) h.symm

theorem f2iRound_spec {x : F32} {k : ℤ} (h : f2iRound x = some k) :
    (k.natAbs : ℚ) ≤ |value x| + 1 / 2 ∧ |value x| + 1 / 2 < k.natAbs + 1 ∧ 0 ≤ (k : ℚ) * value x := by
  cases hx : isFinite x
  · simp [f2iRound_eq_none_iff.mpr hx] at h
  · rw [f2iRound_eq_floor hx, Option.some.injEq] at h
    exact signed_floor (by positivity) h.symm

/-- Settles O60: each clause is the lemma on the branch its operands take; the comparisons are those of the ranks, and the
conversions to integers are floors of the magnitude. -/
theorem specialOperands : Obligations.SpecialOperands := by
  refine ⟨fun x y h => ⟨isNaN_fadd h, isNaN_fsub h, isNaN_fmul h, isNaN_fdiv h, flt_of_isNaN h, fle_of_isNaN h,
      fle_of_isNaN h.symm⟩,
    fun x => isNaN_fsqrt,
    fun x h => ⟨isNaN_fsub_self_of_isInf h, isNaN_fadd_fneg_of_isInf h, fadd_self_of_isInf h, fsub_fneg_of_isInf h⟩,
    fun x y hx hy => ⟨fadd_isInf_isFinite hx hy, fadd_isFinite_isInf hx hy, fsub_isInf_isFinite hx hy,
      fsub_isFinite_isInf hx hy⟩,
    fun x y => isNaN_fmul_isInf_zero,
    fun x y hx hy h0 => pack_bne_infMag _ _ ▸ fmul_isInf_nonzero hx hy h0,
    fun x y => isNaN_fdiv_isInf_isInf,
    fun x y hx hy => pack_bne_infMag _ _ ▸ fdiv_isInf_isFinite hx hy,
    fun x y hx hy => pack_bne_zero _ _ ▸ fdiv_isFinite_isInf hy hx,
    fun x y => isNaN_fdiv_zero_zero,
    fun x y hx h0 hy => pack_bne_infMag _ _ ▸ fdiv_isFinite_zero hx h0 hy,
    by decide,
    fun x => fsub_self,
    fun x y hx hy => ⟨fadd_of_value_add_eq_zero hx hy, fsub_of_value_eq hx hy, sign_fmul hx hy, sign_fdiv hx hy⟩,
    by decide, by decide, by decide,
    fun x => isNaN_fsqrt_of_neg,
    fun x => feq0_iff,
    fun x y => fcompare_value,
    fun y => fcompare_infinities,
    fun n => u2f_exact,
    fun x => ⟨f2iTrunc_eq_none_iff, f2iRound_eq_none_iff⟩,
    fun x k => f2iTrunc_spec,
    fun x k => f2iRound_spec⟩

end Sys2Proof.F32
end

section
/-! What a command can do, said once (40_sequencer_and_move R130, 60_exceptions R371): it takes a fault from the state
before it, it is `HALT`, or it makes elementary writes to destinations it names and advances `pc`. The frames and the
invariant follow from this by induction on the writes. -/

namespace Sys2Proof.Machine.State

open Sys2Proof

/-- A length a command may give a bank: one within `CAP`, or one that a bank has already. -/
def AllowsLength (u : State) (n : Nat) : Prop := n ≤ u.cap ∨ (∃ r, n = u.rlen r) ∨ ∃ b, n = u.clen b

/-- `Writes i s u`: the effects of command `i` without its `pc + 1` lead from `s` to `u`, as elementary writes to
destinations of `i`, each within the bounds of what it writes. -/
inductive Writes (i : Instr) (s : State) : State → Prop
  | nothing : Writes i s s
  | setP {u : State} (h : Writes i s u) (r : Fin 16) (v : Word) (hr : i.writesP r = true) : Writes i s (u.setP r v)
  | setZ {u : State} (h : Writes i s u) (r : Fin 8) (v : Cplx) (hr : i.writesZ r = true) : Writes i s (u.setZ r v)
  | setRealBuf {u : State} (h : Writes i s u) (r : Fin 4) (xs : List F32) (hr : i.writesR r = true)
      (hn : u.AllowsLength xs.length) : Writes i s (u.setRealBuf r xs)
  | setCplxBuf {u : State} (h : Writes i s u) (b : Fin 4) (xs : List Cplx) (hb : i.writesC b = true)
      (hn : u.AllowsLength xs.length) : Writes i s (u.setCplxBuf b xs)
  | updRealBuf {u : State} (h : Writes i s u) (r : Fin 4) (xs : List F32) (hr : i.writesR r = true)
      (hn : xs.length = u.rlen r) : Writes i s (u.updRealBuf r xs)
  | updCplxBuf {u : State} (h : Writes i s u) (b : Fin 4) (xs : List Cplx) (hb : i.writesC b = true)
      (hn : xs.length = u.clen b) : Writes i s (u.updCplxBuf b xs)
  | writeReal {u : State} (h : Writes i s u) (r : Fin 4) (k : Nat) (v : F32) (hr : i.writesR r = true)
      (hk : k < u.rlen r) : Writes i s (u.writeReal r k v)
  | writeCplx {u : State} (h : Writes i s u) (b : Fin 4) (k : Nat) (z : Cplx) (hb : i.writesC b = true)
      (hk : k < u.clen b) : Writes i s (u.writeCplx b k z)
  | newOrder {u : State} (h : Writes i s u) (n : Nat) (hi : i.writesWalsh = true) (h1 : 1 ≤ n)
      (hn : n ≤ u.cfg.wLogDim + 1) : Writes i s { u with WORD := n, WT := [] }
  | touch {u : State} (h : Writes i s u) (a b : Nat) (hi : i.writesWalsh = true) (hw : u.WORD ≠ 0)
      (ha : a < u.walshDim) (hb : b < u.walshDim) : Writes i s (u.touch a b)

variable {i : Instr} {s u : State}

theorem Writes.setBlockP (h : Writes i s u) (base : Fin 16) (k : Nat) (v : Word)
    (hr : ∀ r : Fin 16, r.val = base.val + k → i.writesP r = true) : Writes i s (u.setBlockP base k v) := by
  unfold State.setBlockP
  split
  · exact h.setP _ v (hr _ rfl)
  · exact h

@[simp] theorem touch_walshDim (s : State) (a b : Nat) : (s.touch a b).walshDim = s.walshDim := by simp [walshDim]

/-- The cells of `cells` looked up, one after the other. -/
def touchCells (s : State) (cells : List (Nat × Nat)) : State := cells.foldl (fun t c => t.touch c.1 c.2) s

theorem touchChain_eq_touchCells (s : State) (a b : Nat) :
    s.touchChain a b = s.touchCells ((List.range s.WORD).map fun k => (a % 2 ^ k, b % 2 ^ k)) := by
  rw [touchCells, List.foldl_map]
  rfl

theorem touchAll_eq_touchCells (s : State) :
    s.touchAll = s.touchCells (List.range s.walshDim ×ˢ List.range s.walshDim) := by
  simp only [touchCells, SProd.sprod, List.product, List.foldl_flatMap, List.foldl_map]
  rfl

theorem Writes.touchCells (hi : i.writesWalsh = true) (cells : List (Nat × Nat)) (h : Writes i s u) (hw : u.WORD ≠ 0)
    (hc : ∀ c ∈ cells, c.1 < u.walshDim ∧ c.2 < u.walshDim) : Writes i s (u.touchCells cells) := by
  induction cells generalizing u with
  | nil => exact h
  | cons c cells ih =>
    obtain ⟨ha, hb⟩ := hc c List.mem_cons_self
    exact ih (h.touch c.1 c.2 hi hw ha hb) (by simpa using hw) fun d hd => by
      simpa using hc d (List.mem_cons_of_mem c hd)

theorem Writes.touchChain (hi : i.writesWalsh = true) (h : Writes i s u) (hw : u.WORD ≠ 0) (a b : Nat) :
    Writes i s (u.touchChain a b) := by
  rw [touchChain_eq_touchCells]
  refine h.touchCells hi _ hw ?_
  simp only [List.mem_map, List.mem_range, forall_exists_index, and_imp]
  rintro _ k hk rfl
  have hd : 2 ^ k ≤ u.walshDim := Nat.pow_le_pow_right (by decide) (by omega)
  exact ⟨(Nat.mod_lt a (by positivity)).trans_le hd, (Nat.mod_lt b (by positivity)).trans_le hd⟩

theorem Writes.touchAll (hi : i.writesWalsh = true) (h : Writes i s u) (hw : u.WORD ≠ 0) : Writes i s u.touchAll := by
  rw [touchAll_eq_touchCells]
  exact h.touchCells hi _ hw fun c hc => by simpa using List.pair_mem_product.mp hc

/-- How a command ends: `HALT`, a fault entry from the state before it, or all its writes and `pc + 1`. -/
inductive Ends (i : Instr) (s : State) : State → Prop
  | halted (hi : i = .halt) : Ends i s { s with STATE := .halted }
  | faulted (c : Cause) (v : Nat) : Ends i s (s.takeFault c v)
  | completed {u : State} (h : Writes i s u) : Ends i s u.advance

variable {t : State}

theorem one_le_of_ispow2 {n : Nat} (h : ispow2 n = true) : 1 ≤ n := by
  simp only [ispow2, Bool.and_eq_true, bne_iff_ne] at h
  exact Nat.one_le_iff_ne_zero.mpr h.1

/-- A command with checks, from the lemma that says what it can answer. -/
theorem Ends.of_next {p : Prop} (h : p ∨ ∃ c v, t = s.takeFault c v) (hp : p → ∃ u, Writes i s u ∧ t = u.advance) :
    Ends i s t := by
  obtain h | ⟨c, v, rfl⟩ := h
  · obtain ⟨u, hu, rfl⟩ := hp h
    exact .completed hu
  · exact .faulted c v

theorem Ends.of_done (hu : Writes i s u) (h : done u = .next t) : Ends i s t := by
  cases h
  exact .completed hu

theorem xcorr_length {gen : Config.TwiddleGen} {f : List Cplx} {x : List F32} (h : x.length = f.length) :
    (xcorr gen f x).length = f.length := by simp [xcorr, h]

/-- What every command can answer (R130, R371). -/
theorem exec_ends (h : exec i s = .next t) : Ends i s t := by
  have one {n : Nat} (a : Fin n) : (a == a) = true := beq_self_eq_true a
  cases i with
  | nop => exact .of_done .nothing h
  | halt => cases h; exact .halted rfl
  | setlo pd _ => exact .of_done (.setP .nothing pd _ (one pd)) h
  | sethi pd _ => exact .of_done (.setP .nothing pd _ (one pd)) h
  | movp pd _ => exact .of_done (.setP .nothing pd _ (one pd)) h
  | ccopy cd cs =>
    refine .of_done ?_ h
    split
    · exact .nothing
    · exact .setCplxBuf .nothing cd _ (one cd) (.inr (.inr ⟨cs, by simp⟩))
  | rcopy rd rs =>
    refine .of_done ?_ h
    split
    · exact .nothing
    · exact .setRealBuf .nothing rd _ (one rd) (.inr (.inl ⟨rs, by simp⟩))
  | czero cd _ => exact .of_next (execCzero_next h) fun ⟨hn, e⟩ =>
      ⟨_, .setCplxBuf .nothing cd _ (one cd) (.inl (by simpa using hn)), e⟩
  | rzero rd _ => exact .of_next (execRzero_next h) fun ⟨hn, e⟩ =>
      ⟨_, .setRealBuf .nothing rd _ (one rd) (.inl (by simpa using hn)), e⟩
  | rld pd _ _ => exact .of_next (execRld_next h) fun ⟨_, e⟩ => ⟨_, .setP .nothing pd _ (one pd), e⟩
  | rst rd _ _ => exact .of_next (execRst_next h) fun ⟨hk, e⟩ => ⟨_, .writeReal .nothing rd _ _ (one rd) hk, e⟩
  | zmk zd _ _ => exact .of_done (.setZ .nothing zd _ (one zd)) h
  | zre pd _ => exact .of_done (.setP .nothing pd _ (one pd)) h
  | zim pd _ => exact .of_done (.setP .nothing pd _ (one pd)) h
  | zld zd _ _ => exact .of_next (execZld_next h) fun ⟨_, e⟩ => ⟨_, .setZ .nothing zd _ (one zd), e⟩
  | zst cd _ _ => exact .of_next (execZst_next h) fun ⟨hk, e⟩ => ⟨_, .writeCplx .nothing cd _ _ (one cd) hk, e⟩
  | zadd zd _ _ => exact .of_done (.setZ .nothing zd _ (one zd)) h
  | zsub zd _ _ => exact .of_done (.setZ .nothing zd _ (one zd)) h
  | zmul zd _ _ => exact .of_done (.setZ .nothing zd _ (one zd)) h
  | zdiv zd _ _ => exact .of_next (execZdiv_next h) fun ⟨_, e⟩ => ⟨_, .setZ .nothing zd _ (one zd), e⟩
  | zdivs zd _ _ => exact .of_next (execZdivs_next h) fun ⟨_, e⟩ => ⟨_, .setZ .nothing zd _ (one zd), e⟩
  | zmag pd _ => exact .of_done (.setP .nothing pd _ (one pd)) h
  | zphase pd _ => exact .of_done (.setP .nothing pd _ (one pd)) h
  | znorm zd _ => exact .of_done (.setZ .nothing zd _ (one zd)) h
  | zisz pd _ => exact .of_done (.setP .nothing pd _ (one pd)) h
  | zconj zd _ => exact .of_done (.setZ .nothing zd _ (one zd)) h
  | bitrev cb => exact .of_next (execBitrev_next h) fun ⟨_, e⟩ =>
      ⟨_, .updCplxBuf .nothing cb _ (one cb) (by simp), e⟩
  | bfly cb _ => exact .of_next (execBfly_next h) fun ⟨_, e⟩ => ⟨_, .updCplxBuf .nothing cb _ (one cb) (by simp), e⟩
  | fft cb => exact .of_next (execFft_next h) fun ⟨_, e⟩ => ⟨_, .updCplxBuf .nothing cb _ (one cb) (by simp), e⟩
  | ifft cb => exact .of_next (execIfft_next h) fun ⟨_, e⟩ => ⟨_, .updCplxBuf .nothing cb _ (one cb) (by simp), e⟩
  | twid zd _ _ _ => exact .of_next (execTwid_next h) fun ⟨_, _, e⟩ => ⟨_, .setZ .nothing zd _ (one zd), e⟩
  | lift cd _ _ => exact .of_next (execLift_next h) fun ⟨_, hS, hL, e⟩ =>
      ⟨_, .setCplxBuf .nothing cd _ (one cd) (.inl (by simp [hL, hS])), e⟩
  | rfft cd _ _ => exact .of_next (execRfft_next h) fun ⟨_, hS, hL, e⟩ =>
      ⟨_, .setCplxBuf .nothing cd _ (one cd) (.inl (by simp [hL, hS])), e⟩
  | rfftg cd _ cs _ _ =>
    refine .of_next (execRfftg_next h) fun ⟨_, _, _, hS, _, e⟩ => ⟨_, .setCplxBuf (.setCplxBuf .nothing cs _
      (by simp [Instr.writesC]) (.inl ?_)) cd _ (by simp [Instr.writesC]) (.inl (by simpa [cap] using hS)), e⟩
    rwa [groupParts_length, Nat.mul_comm]
  | realp rd cs => exact .of_done (.setRealBuf .nothing rd _ (one rd) (.inr (.inr ⟨cs, by simp⟩))) h
  | bpedge pd pn pfs pf0 pbw =>
    refine .of_next (execBpedge_next h) fun ⟨i0, i1, _, _, _, e⟩ => ⟨_, ?_, e⟩
    have block (k : Nat) (hk : k < 4) (r : Fin 16) (hr : r.val = pd.val + k) :
        (Instr.bpedge pd pn pfs pf0 pbw).writesP r = true := by
      simp only [Instr.writesP, decide_eq_true_eq]
      omega
    exact (((Writes.nothing.setBlockP pd 0 _ (block 0 (by decide))).setBlockP pd 1 _ (block 1 (by decide))).setBlockP
      pd 2 _ (block 2 (by decide))).setBlockP pd 3 _ (block 3 (by decide))
  | bpmask cb _ => exact .of_next (execBpmask_next h) fun ⟨_, _, _, e⟩ =>
      ⟨_, .updCplxBuf .nothing cb _ (one cb) (by simp), e⟩
  | bpf cb _ _ _ => exact .of_next (execBpf_next h) fun ⟨_, _, _, _, e⟩ =>
      ⟨_, .updCplxBuf .nothing cb _ (one cb) (by simp), e⟩
  | cmulv cd _ => exact .of_next (execCmulv_next h) fun ⟨hl, e⟩ =>
      ⟨_, .updCplxBuf .nothing cd _ (one cd) (by simp [hl]), e⟩
  | conv rd _ _ ca cb _ => exact .of_next (execConv_next h) fun ⟨_, _, hS, ha, hb, e⟩ =>
      ⟨_, .setRealBuf (.setCplxBuf (.setCplxBuf .nothing ca _ (by simp [Instr.writesC]) (.inl (by simp [ha, hb, hS])))
        cb _ (by simp [Instr.writesC]) (.inl (by simpa [hb, cap] using hS))) rd _ (one rd)
        (.inl (by simpa [ha, hb, cap] using hS)), e⟩
  | conjv cb => exact .of_done (.updCplxBuf .nothing cb _ (one cb) (by simp)) h
  | whiten cb => exact .of_done (.updCplxBuf .nothing cb _ (one cb) (by simp)) h
  | xcinit cf _ _ => exact .of_next (execXcinit_next h) fun ⟨_, hS, hL, e⟩ =>
      ⟨_, .setCplxBuf .nothing cf _ (one cf) (.inl (by simp [xcinit, hL, hS])), e⟩
  | xcorr rsig cf cw =>
    refine .of_next (execXcorr_next h) fun ⟨_, _, hl, e⟩ => ⟨_, ?_, e⟩
    have hx : (xcorr s.cfg.twiddle (s.cplxBuf cf) (s.realBuf rsig)).length = s.clen cf := by
      rw [xcorr_length (by simpa using hl), cplxBuf_length]
    exact .updRealBuf (.setCplxBuf .nothing cw _ (by simp [Instr.writesC]) (.inr (.inr ⟨cf, hx⟩))) rsig _ (one rsig)
      (by rw [realp_length, hx]; exact hl.symm)
  | zstuff cd _ _ => exact .of_next (execZstuff_next h) fun ⟨_, _, ht, hS, _, e⟩ =>
      ⟨_, .setCplxBuf .nothing cd _ (one cd) (.inl (by rw [zstuff_length _ (one_le_of_ispow2 ht)]; simpa using hS)), e⟩
  | decim rd _ _ _ => exact .of_next (execDecim_next h) fun ⟨hn, _, e⟩ =>
      ⟨_, .setRealBuf .nothing rd _ (one rd) (.inl (by simpa using hn)), e⟩
  | resamp rd _ ca cb _ =>
    refine .of_next (execResamp_next h) fun ⟨step, _, _, ht, hS, hL, hn, _, _, e⟩ => ?_
    have hT := one_le_of_ispow2 ht
    refine ⟨_, .setRealBuf (.setCplxBuf (.setCplxBuf .nothing ca _ (by simp [Instr.writesC]) (.inl ?_))
      cb _ (by simp [Instr.writesC]) (.inl ?_)) rd _ (one rd) (.inl (by simpa [cap] using hn)), e⟩
    · simpa [hL] using (Nat.le_mul_of_pos_left _ hT).trans hS
    · simpa [zstuff_length _ hT, hL, cap] using hS
  | hrot cb => exact .of_next (execHrot_next h) fun ⟨_, e⟩ => ⟨_, .updCplxBuf .nothing cb _ (one cb) (by simp), e⟩
  | hilb cd _ _ => exact .of_next (execHilb_next h) fun ⟨_, hS, hL, e⟩ =>
      ⟨_, .setCplxBuf .nothing cd _ (one cd) (.inl (by simpa using hL.trans hS)), e⟩
  | words _ => exact .of_next (execWords_next h) fun ⟨h1, hn, e⟩ => ⟨_, .newOrder .nothing _ rfl h1 hn, e⟩
  | wget pd _ _ => exact .of_next (execWget_next h) fun ⟨hw, _, _, e⟩ =>
      ⟨_, .setP (Writes.nothing.touchChain rfl hw _ _) pd _ (one pd), e⟩
  | wfill => exact .of_next (execWfill_next h) fun ⟨hw, e⟩ => ⟨_, Writes.nothing.touchAll rfl hw, e⟩

end Sys2Proof.Machine.State
end

section
/-! The frames of registers and control state (10_state R31, R34, R35, R38, R47, R49): what no elementary write of a
command touches. -/

namespace Sys2Proof.Machine.State

open Sys2Proof

variable {i : Instr} {s t u : State}

theorem Writes.getP_eq (h : Writes i s u) {r : Fin 16} (hr : i.writesP r = false) : u.getP r = s.getP r := by
  induction h with
  | setP _ q v hq ih =>
    have hne : r ≠ q := by
      rintro rfl
      simp [hq] at hr
    exact (getP_setP_ne _ v hne).trans ih
  | touch _ a b _ _ _ _ ih =>
    obtain ⟨wt, e⟩ := touch_frame _ a b
    rw [e]
    exact ih
  | nothing => rfl
  | setZ _ _ _ _ ih | setRealBuf _ _ _ _ _ ih | setCplxBuf _ _ _ _ _ ih | updRealBuf _ _ _ _ _ ih
  | updCplxBuf _ _ _ _ _ ih | writeReal _ _ _ _ _ _ ih | writeCplx _ _ _ _ _ _ ih | newOrder _ _ _ _ _ ih => exact ih

theorem Writes.getZ_eq (h : Writes i s u) {r : Fin 8} (hr : i.writesZ r = false) : u.getZ r = s.getZ r := by
  induction h with
  | setZ _ q v hq ih =>
    have hne : r ≠ q := by
      rintro rfl
      simp [hq] at hr
    exact (getZ_setZ_ne _ v hne).trans ih
  | touch _ a b _ _ _ _ ih =>
    obtain ⟨wt, e⟩ := touch_frame _ a b
    rw [e]
    exact ih
  | nothing => rfl
  | setP _ _ _ _ ih | setRealBuf _ _ _ _ _ ih | setCplxBuf _ _ _ _ _ ih | updRealBuf _ _ _ _ _ ih
  | updCplxBuf _ _ _ _ _ ih | writeReal _ _ _ _ _ _ ih | writeCplx _ _ _ _ _ _ ih | newOrder _ _ _ _ _ ih => exact ih

/-- A command's writes reach the registers, the banks and the Walsh state, and no other part of the state. -/
theorem Writes.frame (h : Writes i s u) :
    ∃ P Z RB CB WORD WT, u = { s with P := P, Z := Z, RB := RB, CB := CB, WORD := WORD, WT := WT } := by
  induction h with
  | nothing => exact ⟨_, _, _, _, _, _, rfl⟩
  | touch _ a b _ _ _ _ ih =>
    obtain ⟨_, _, _, _, _, _, rfl⟩ := ih
    obtain ⟨wt, e⟩ := touch_frame _ a b
    exact ⟨_, _, _, _, _, _, e⟩
  | setP _ _ _ _ ih | setZ _ _ _ _ ih | setRealBuf _ _ _ _ _ ih | setCplxBuf _ _ _ _ _ ih | updRealBuf _ _ _ _ _ ih
  | updCplxBuf _ _ _ _ _ ih | writeReal _ _ _ _ _ _ ih | writeCplx _ _ _ _ _ _ ih | newOrder _ _ _ _ _ ih =>
    obtain ⟨_, _, _, _, _, _, rfl⟩ := ih
    exact ⟨_, _, _, _, _, _, rfl⟩

theorem Writes.walsh_eq (h : Writes i s u) (hi : i.writesWalsh = false) : u.WORD = s.WORD ∧ u.WT = s.WT := by
  induction h with
  | nothing => exact ⟨rfl, rfl⟩
  | newOrder _ _ hi' | touch _ _ _ hi' => simp [hi] at hi'
  | setP _ _ _ _ ih | setZ _ _ _ _ ih | setRealBuf _ _ _ _ _ ih | setCplxBuf _ _ _ _ _ ih | updRealBuf _ _ _ _ _ ih
  | updCplxBuf _ _ _ _ _ ih | writeReal _ _ _ _ _ _ ih | writeCplx _ _ _ _ _ _ ih => exact ih

/-- Settles O51: fault entry and `HALT` write no register, a completed command only those its writes name. -/
theorem frameRegisters : Obligations.FrameRegisters := by
  intro i s t h
  cases exec_ends h with
  | halted | faulted => exact ⟨fun _ _ => rfl, fun _ _ => rfl⟩
  | completed hu => exact ⟨fun _ hr => hu.getP_eq hr, fun _ hr => hu.getZ_eq hr⟩

/-- Settles O53: the record is written by fault entry alone, which ends in `FAULT`; the rest is the frame of the writes. -/
theorem frameControl : Obligations.FrameControl := by
  intro i s t _ h
  cases exec_ends h with
  | halted => exact ⟨rfl, fun _ => rfl, rfl, rfl, rfl, fun _ => ⟨rfl, rfl, rfl⟩, fun _ => ⟨rfl, fun _ _ => rfl⟩⟩
  | faulted => exact ⟨rfl, fun _ => rfl, rfl, rfl, rfl, fun hf => absurd rfl hf, fun _ => ⟨rfl, fun _ _ => rfl⟩⟩
  | completed hu =>
    have walsh := hu.walsh_eq
    obtain ⟨_, _, _, _, _, _, rfl⟩ := hu.frame
    refine ⟨rfl, fun _ => rfl, rfl, rfl, rfl, fun _ => ⟨rfl, rfl, rfl⟩, fun hi => ?_⟩
    obtain ⟨hword, hwt⟩ := walsh hi
    exact ⟨hword, fun a b => congrArg (Sparse.lookup · (a * s.cfg.wDim + b)) hwt⟩

end Sys2Proof.Machine.State
end

section
/-! The invariant (`State.Inv`) after power-on, and each elementary update that keeps it. -/

namespace Sys2Proof.Machine

open Sys2Proof

/-- A bank after a bank was set is the new one or an old one. -/
theorem getElem_set_cases {p : Bank → Prop} (v : Vector Bank 4) (r q : Fin 4) (B : Bank) (hB : p B) (hq : p v[q]) :
    p (v.set r B)[q] := by
  by_cases h : (r : Nat) = q
  · obtain rfl := Fin.ext h
    simpa using hB
  · simpa [h] using hq

theorem Sparse.mem_put {α : Type} {t : Sparse α} {k : Nat} {v : α} {c : Nat × α} (h : c ∈ Sparse.put t k v) :
    c = (k, v) ∨ c ∈ t := by
  induction t with
  | nil => exact .inl (by simpa [Sparse.put] using h)
  | cons d t ih =>
    obtain ⟨j, w⟩ := d
    simp only [Sparse.put] at h
    split at h
    · simpa using h
    · split at h
      · simp only [List.mem_cons] at h ⊢
        tauto
      · simp only [List.mem_cons] at h ⊢
        tauto

namespace State

variable {i : Instr} {s t u : State}

theorem inv_resetWith {cfg : Config.Params} (h : cfg.wf = true) : (resetWith cfg).Inv where
  cfg_wf := h
  pc_le := Nat.zero_le _
  rlen_le _ := by simp [rlen, resetWith, Bank.reset]
  clen_le _ := by simp [clen, resetWith, Bank.reset]
  rb_wf _ := by simp [resetWith, Bank.reset, Mem.wf_empty]
  cb_wf _ := by simp [resetWith, Bank.reset, Mem.wf_empty]
  cm_wf := rfl
  word_le := Nat.zero_le _
  wt_wf := rfl
  wt_cell _ hc := nomatch hc
  fault := by simp [resetWith]
  record _ := ⟨rfl, rfl⟩
  fault_pc h := nomatch h

/-- Settles O4: the suggested parameters are legal ones. -/
theorem invariantAtReset : Obligations.InvariantAtReset :=
  ⟨inv_resetWith (by decide), fun _ => inv_resetWith⟩

theorem Inv.restart (h : s.Inv) (ie : Bool) : (s.restart ie).Inv :=
  { inv_resetWith h.cfg_wf with
    rlen_le _ := by simp [State.restart, rlen, Bank.cleared]
    clen_le _ := by simp [State.restart, clen, Bank.cleared]
    rb_wf _ := by simp [State.restart, Bank.cleared, Mem.wf_fresh]
    cb_wf _ := by simp [State.restart, Bank.cleared, Mem.wf_fresh]
    cm_wf := Mem.wf_fresh _ _ (Nat.zero_le _) }

/-! ### What the invariant says nothing of -/

theorem Inv.setP (h : s.Inv) (r : Fin 16) (v : Word) : (s.setP r v).Inv := { h with }

theorem Inv.setZ (h : s.Inv) (r : Fin 8) (v : Cplx) : (s.setZ r v).Inv := { h with }

theorem Inv.withIE (h : s.Inv) (ie : Bool) : { s with IE := ie }.Inv := { h with }

theorem Inv.withHost (h : s.Inv) (turns : List HostTurn) : { s with host := turns }.Inv := { h with }

theorem Inv.withHostGot (h : s.Inv) (got : Option Word) : { s with hostGot := got }.Inv := { h with }

/-! ### Banks and command memory -/

theorem Inv.withRB (h : s.Inv) (r : Fin 4) (B : Bank) (hl : B.len ≤ s.cap) (hw : B.mem.wf s.cap = true) :
    { s with RB := s.RB.set r B }.Inv :=
  { h with
    rlen_le q := getElem_set_cases (p := (·.len ≤ s.cap)) s.RB r q B hl (h.rlen_le q)
    rb_wf q := getElem_set_cases (p := (·.mem.wf s.cap = true)) s.RB r q B hw (h.rb_wf q) }

theorem Inv.withCB (h : s.Inv) (b : Fin 4) (B : Bank) (hl : B.len ≤ s.cap) (hw : B.mem.wf (2 * s.cap) = true) :
    { s with CB := s.CB.set b B }.Inv :=
  { h with
    clen_le q := getElem_set_cases (p := (·.len ≤ s.cap)) s.CB b q B hl (h.clen_le q)
    cb_wf q := getElem_set_cases (p := (·.mem.wf (2 * s.cap) = true)) s.CB b q B hw (h.cb_wf q) }

theorem Inv.withCM (h : s.Inv) {a : Nat} (v : Word) (ha : a < s.cfg.cmdCap) : { s with CM := s.CM.write a v }.Inv :=
  { h with cm_wf := Mem.wf_write _ v h.cm_wf ha }

theorem Inv.length_le (h : s.Inv) {n : Nat} (hn : s.AllowsLength n) : n ≤ s.cap := by
  obtain hn | ⟨r, rfl⟩ | ⟨b, rfl⟩ := hn
  · exact hn
  · exact h.rlen_le r
  · exact h.clen_le b

theorem Inv.setRealBuf (h : s.Inv) (r : Fin 4) {xs : List F32} (hn : xs.length ≤ s.cap) : (s.setRealBuf r xs).Inv :=
  h.withRB r _ hn (Mem.wf_fresh _ _ hn)

theorem Inv.setCplxBuf (h : s.Inv) (b : Fin 4) {xs : List Cplx} (hn : xs.length ≤ s.cap) : (s.setCplxBuf b xs).Inv :=
  h.withCB b _ hn (Mem.wf_fresh _ _ (by simpa using hn))

theorem Inv.updRealBuf (h : s.Inv) (r : Fin 4) {xs : List F32} (hn : xs.length = s.rlen r) : (s.updRealBuf r xs).Inv :=
  h.withRB r _ (h.rlen_le r) (Mem.wf_overwrite _ _ (h.rb_wf r) (hn ▸ h.rlen_le r))

theorem Inv.updCplxBuf (h : s.Inv) (b : Fin 4) {xs : List Cplx} (hn : xs.length = s.clen b) : (s.updCplxBuf b xs).Inv :=
  h.withCB b _ (h.clen_le b) (Mem.wf_overwrite _ _ (h.cb_wf b) (by simpa [hn] using h.clen_le b))

theorem Inv.writeReal (h : s.Inv) (r : Fin 4) {k : Nat} (v : F32) (hk : k < s.cap) : (s.writeReal r k v).Inv :=
  h.withRB r _ (h.rlen_le r) (Mem.wf_write _ v (h.rb_wf r) hk)

theorem Inv.writeCplxWord (h : s.Inv) (b : Fin 4) {k : Nat} (v : Word) (hk : k < 2 * s.cap) :
    (s.writeCplxWord b k v).Inv :=
  h.withCB b _ (h.clen_le b) (Mem.wf_write _ v (h.cb_wf b) hk)

theorem Inv.writeCplx (h : s.Inv) (b : Fin 4) {k : Nat} (z : Cplx) (hk : k < s.cap) : (s.writeCplx b k z).Inv :=
  (h.writeCplxWord b z.re (k := 2 * k) (by omega)).writeCplxWord b z.im (k := 2 * k + 1)
    (show 2 * k + 1 < 2 * s.cap by omega)

/-! ### The Walsh state -/

theorem Inv.newOrder (h : s.Inv) {n : Nat} (hn : n ≤ s.cfg.wLogDim + 1) : { s with WORD := n, WT := [] }.Inv :=
  { h with word_le := hn, wt_wf := rfl, wt_cell := fun _ hc => nomatch hc }

theorem Inv.walshDim_le (h : s.Inv) : s.walshDim ≤ s.cfg.wDim :=
  Nat.pow_le_pow_right (by decide) (Nat.sub_le_of_le_add h.word_le)

theorem Inv.withCell (h : s.Inv) {a b : Nat} (hw : s.WORD ≠ 0) (ha : a < s.walshDim) (hb : b < s.walshDim) :
    { s with WT := Sparse.put s.WT (a * s.cfg.wDim + b) (walsh s.cfg.walshNeg s.WORD a b) }.Inv := by
  have key : a * s.cfg.wDim + b < s.cfg.wDim * s.cfg.wDim := by
    have := h.walshDim_le
    calc a * s.cfg.wDim + b < a * s.cfg.wDim + s.cfg.wDim := by omega
      _ = (a + 1) * s.cfg.wDim := (Nat.succ_mul _ _).symm
      _ ≤ s.cfg.wDim * s.cfg.wDim := Nat.mul_le_mul_right _ (by omega)
  exact { h with
    wt_wf := Sparse.risingFrom_put _ _ h.wt_wf (Nat.zero_le _) key
    wt_cell := fun c hc => by
      obtain rfl | hc := Sparse.mem_put hc
      · exact ⟨hw, a, b, ha, hb, rfl⟩
      · exact h.wt_cell c hc }

theorem Inv.touch (h : s.Inv) {a b : Nat} (hw : s.WORD ≠ 0) (ha : a < s.walshDim) (hb : b < s.walshDim) :
    (s.touch a b).Inv := by
  unfold State.touch
  split
  · exact h
  · exact h.withCell hw ha hb

/-- Every write of a command keeps the invariant. -/
theorem Inv.writes (h : s.Inv) (hu : Writes i s u) : u.Inv := by
  induction hu with
  | nothing => exact h
  | setP _ r v _ ih => exact ih.setP r v
  | setZ _ r v _ ih => exact ih.setZ r v
  | setRealBuf _ r _ _ hn ih => exact ih.setRealBuf r (ih.length_le hn)
  | setCplxBuf _ b _ _ hn ih => exact ih.setCplxBuf b (ih.length_le hn)
  | updRealBuf _ r _ _ hn ih => exact ih.updRealBuf r hn
  | updCplxBuf _ b _ _ hn ih => exact ih.updCplxBuf b hn
  | writeReal _ r _ v _ hk ih => exact ih.writeReal r v (hk.trans_le (ih.rlen_le r))
  | writeCplx _ b _ z _ hk ih => exact ih.writeCplx b z (hk.trans_le (ih.clen_le b))
  | newOrder _ _ _ _ hn ih => exact ih.newOrder hn
  | touch _ _ _ _ hw ha hb ih => exact ih.touch hw ha hb

/-! ### `pc`, `STATE` and the fault record -/

theorem Inv.takeFault (h : s.Inv) (c : Cause) (v : Nat) : (s.takeFault c v).Inv :=
  { h with fault := by simp, record := fun e => (nomatch e), fault_pc := fun _ => rfl }

theorem Inv.clearFault (h : s.Inv) : s.clearFault.Inv :=
  { h with fault := by simp, record := fun _ => ⟨rfl, rfl⟩, fault_pc := fun e => (nomatch e) }

/-- Outside `FAULT` the engine may go to any place of the program and to any state that is not `FAULT`. -/
theorem Inv.withControl (h : s.Inv) (hs : s.STATE ≠ .fault) {pc : Nat} (hpc : pc ≤ s.cfg.cmdCap) {r : RunState}
    (hr : r ≠ .fault) : { s with pc := pc, STATE := r }.Inv :=
  { h with
    pc_le := hpc
    fault := iff_of_false hr (h.fault.not.mp hs)
    fault_pc := fun e => absurd e hr }

end State

end Sys2Proof.Machine
end

section
/-! Every step keeps the invariant: the engine's by the ends of a command, the host's by what its word map can name. -/

namespace Sys2Proof.Machine

open Sys2Proof

/-- The index a host word carries lies in its memory. -/
def HostWord.InMap (c : Config.Params) : HostWord → Prop
  | .cm a => a < c.cmdCap
  | .rb _ k => k < c.cap
  | .cb _ k => k < 2 * c.cap
  | _ => True

theorem locateControl_inMap (c : Config.Params) (a : Nat) : (locateControl a).InMap c := by
  unfold locateControl
  split <;> trivial

theorem locateRegister_inMap (c : Config.Params) (a : Nat) : (locateRegister a).InMap c := by
  unfold locateRegister
  repeat' split
  all_goals trivial

theorem locateReal_inMap (c : Config.Params) (off : Nat) : (locateReal c off).InMap c := by
  unfold locateReal
  split
  · split
    · assumption
    · trivial
  · trivial

theorem locateCplx_inMap (c : Config.Params) (off : Nat) : (locateCplx c off).InMap c := by
  unfold locateCplx
  split
  · split
    · assumption
    · trivial
  · trivial

theorem locate_inMap (c : Config.Params) (a : Nat) : (locate c a).InMap c := by
  unfold locate
  split
  · exact locateControl_inMap c a
  split
  · exact locateRegister_inMap c a
  split
  · trivial
  split
  · split
    · assumption
    · trivial
  split
  · exact locateReal_inMap c _
  split
  · exact locateCplx_inMap c _
  split <;> trivial

namespace State

/-! ### The `CTRL` write by its steps (20_memory R84) -/

/-- Step (3): `CLRF`. -/
def clearBy (s : State) (v : Word) : State :=
  if v.getLsbD 1 && (s.STATE == .halted || s.STATE == .fault) then s.clearFault else s

/-- Step (4): `START`. -/
def startBy (s : State) (v : Word) : State :=
  if v.getLsbD 0 && (s.STATE == .idle || s.STATE == .halted) then { s with pc := 0, STATE := .run } else s

theorem writeCtrl_eq (s : State) (v : Word) :
    s.writeCtrl v =
      if v.getLsbD 2 then s.restart (v.getLsbD 3) else ({ s with IE := v.getLsbD 3 }.clearBy v).startBy v := rfl

variable {i : Instr} {s t u : State}

theorem exec_inv (h : s.Inv) (hrun : s.STATE = .run) (hpc : s.pc < s.cfg.cmdCap) (he : exec i s = .next t) : t.Inv := by
  have hs : s.STATE ≠ .fault := by simp [hrun]
  cases exec_ends he with
  | halted => exact h.withControl hs h.pc_le (by decide)
  | faulted c v => exact h.takeFault c v
  | completed hu =>
    have hinv := h.writes hu
    obtain ⟨_, _, _, _, _, _, rfl⟩ := hu.frame
    exact hinv.withControl hs hpc hs

theorem fetch_eq_ok (h : fetch s = .ok i) : s.pc < s.cfg.cmdCap := by
  unfold fetch at h
  split at h
  · assumption
  · cases h

theorem engineStep_inv (h : s.Inv) (he : engineStep s = .next t) : t.Inv := by
  unfold engineStep at he
  split at he
  next hrun =>
    split at he
    next hf => exact exec_inv h hrun (fetch_eq_ok hf) he
    next c v _ =>
      cases he
      exact h.takeFault c v
  all_goals
    cases he
    exact h

theorem clearBy_inv (h : s.Inv) (v : Word) : (s.clearBy v).Inv := by
  unfold clearBy
  split
  · exact h.clearFault
  · exact h

theorem startBy_inv (h : s.Inv) (v : Word) : (s.startBy v).Inv := by
  unfold startBy
  split
  next hstart =>
    simp only [Bool.and_eq_true, Bool.or_eq_true, beq_iff_eq] at hstart
    refine h.withControl (r := .run) ?_ (Nat.zero_le _) (by decide)
    obtain ⟨-, e | e⟩ := hstart <;> simp [e]
  next => exact h

theorem writeCtrl_inv (h : s.Inv) (v : Word) : (s.writeCtrl v).Inv := by
  rw [writeCtrl_eq]
  split
  · exact h.restart _
  · exact startBy_inv (clearBy_inv (h.withIE _) v) v

theorem hostLength_wf {g : Config.Region} {per n size : Nat} {B : Bank} (hw : B.mem.wf size = true)
    (hn : per * n ≤ size) : (hostLength g per B n).mem.wf size = true := by
  unfold hostLength
  split
  · exact hw
  · exact Mem.wf_fresh _ _ (by simpa using hn)

theorem writeHostWord_inv (h : s.Inv) (v : Word) {w : HostWord} (hw : w.InMap s.cfg) : (s.writeHostWord v w).Inv := by
  cases w with
  | ctrl => exact writeCtrl_inv h v
  | p r => exact h.setP r v
  | zre r => exact h.setZ r _
  | zim r => exact h.setZ r _
  | rlen r =>
    by_cases hv : v.toNat ≤ s.cap
    · rw [writeHostWord_rlen s v r hv]
      exact h.withRB r _ (by simpa using hv) (hostLength_wf (h.rb_wf r) (by omega))
    · rwa [State.writeHostWord, if_neg hv]
  | clen b =>
    by_cases hv : v.toNat ≤ s.cap
    · rw [writeHostWord_clen s v b hv]
      exact h.withCB b _ (by simpa using hv) (hostLength_wf (h.cb_wf b) (by omega))
    · rwa [State.writeHostWord, if_neg hv]
  | cm a => exact h.withCM v hw
  | rb r k => exact h.writeReal r v hw
  | cb b k => exact h.writeCplxWord b v hw
  | status | pcr | fcause | fpc | finfo | wordr | id | capr | rev | wt | reserved => exact h

theorem hostRead_inv {addr : Nat} (h : s.Inv) (he : hostRead addr s = .next t) : t.Inv := by
  unfold hostRead at he
  split at he
  · dsimp only at he
    split at he
    · cases he
    · cases he
      exact h.withHostGot _
  · cases he

theorem hostWrite_inv {addr : Nat} {v : Word} (h : s.Inv) (he : hostWrite addr v s = .next t) : t.Inv := by
  unfold hostWrite at he
  split at he
  · dsimp only at he
    split at he
    · cases he
    · cases he
      exact writeHostWord_inv h v (locate_inMap s.cfg addr)
  · cases he

theorem hostMove_inv {m : HostMove} (h : s.Inv) (he : hostMove m s = .next t) : t.Inv := by
  unfold hostMove at he
  split at he
  next => exact hostRead_inv h he
  next => exact hostWrite_inv h he
  next =>
    split at he
    · exact hostRead_inv h he
    · cases he
  next =>
    split at he
    · exact hostWrite_inv h he
    · cases he
  next => cases he
  next =>
    cases he
    exact h.restart false

/-- Settles O57: the turn taken is the engine's or one host move, and each keeps the invariant. -/
theorem invariantKept : Obligations.InvariantKept := by
  intro s t h he
  unfold step at he
  split at he
  next => exact engineStep_inv h he
  next => exact engineStep_inv (h.withHost _) he
  next => exact hostMove_inv (h.withHost _) he

end State

end Sys2Proof.Machine
end

section
/-! What a command sees of a state (10_state R46), and each elementary update that two states which look alike go
through together. -/

namespace Sys2Proof.Machine

open Sys2Proof

/-- Two banks with one length whose words below it, `per` a sample, read alike. -/
def Bank.LooksLike (g : Config.Region) (per : Nat) (B C : Bank) : Prop :=
  B.len = C.len ∧ ∀ k < per * B.len, B.mem.read g k = C.mem.read g k

section

variable {g : Config.Region} {per : Nat} {B C : Bank}

theorem Bank.looksLike_fresh {n : Nat} {ws : List Word} (hn : per * n = ws.length) :
    Bank.LooksLike g per { len := n, mem := B.mem.fresh ws } { len := n, mem := C.mem.fresh ws } :=
  ⟨rfl, fun k hk => by
    have hk' : k < ws.length := hn ▸ hk
    rw [Mem.read_fresh g B.mem ws hk', Mem.read_fresh g C.mem ws hk']⟩

theorem Bank.LooksLike.overwrite (h : B.LooksLike g per C) (ws : List Word) :
    Bank.LooksLike g per { B with mem := B.mem.overwrite ws } { C with mem := C.mem.overwrite ws } := by
  refine ⟨h.1, fun k hk => ?_⟩
  by_cases hw : k < ws.length
  · rw [Mem.read_overwrite g B.mem ws hw, Mem.read_overwrite g C.mem ws hw]
  · rw [Mem.read_overwrite_beyond g B.mem ws (not_lt.mp hw), Mem.read_overwrite_beyond g C.mem ws (not_lt.mp hw)]
    exact h.2 k hk

theorem Bank.LooksLike.write (h : B.LooksLike g per C) (j : Nat) (v : Word) :
    Bank.LooksLike g per { B with mem := B.mem.write j v } { C with mem := C.mem.write j v } := by
  refine ⟨h.1, fun k hk => ?_⟩
  by_cases hj : k = j
  · rw [hj, Mem.read_write_same, Mem.read_write_same]
  · rw [Mem.read_write_ne g B.mem v hj, Mem.read_write_ne g C.mem v hj]
    exact h.2 k hk

end

theorem getElem_set_cases₂ {p : Fin 4 → Bank → Bank → Prop} (v w : Vector Bank 4) (r q : Fin 4) (B C : Bank)
    (hB : p r B C) (hq : p q v[q] w[q]) : p q (v.set r B)[q] (w.set r C)[q] := by
  by_cases h : (r : Nat) = q
  · obtain rfl := Fin.ext h
    simpa using hB
  · simpa [h] using hq

namespace State

variable {s t : State}

theorem looksLike_real_iff {r : Fin 4} :
    Bank.LooksLike (.real r) 1 s.RB[r] t.RB[r] ↔ s.rlen r = t.rlen r ∧ s.realBuf r = t.realBuf r := by
  refine and_congr_right fun (hl : s.rlen r = t.rlen r) => ?_
  rw [realBuf, realBuf, ← hl, List.map_inj_left]
  simp only [List.mem_range, one_mul]
  rfl

theorem looksLike_cplx_iff {b : Fin 4} :
    Bank.LooksLike (.cplx b) 2 s.CB[b] t.CB[b] ↔ s.clen b = t.clen b ∧ s.cplxBuf b = t.cplxBuf b := by
  refine and_congr_right fun (hl : s.clen b = t.clen b) => ?_
  rw [cplxBuf, cplxBuf, ← hl, List.map_inj_left]
  simp only [List.mem_range, readCplx, Cplx.mk.injEq]
  change (∀ k < 2 * s.clen b, s.readCplxWord b k = t.readCplxWord b k) ↔ _
  constructor
  · intro h k hk
    exact ⟨h (2 * k) (by omega), h (2 * k + 1) (by omega)⟩
  · intro h k hk
    obtain ⟨hre, him⟩ := h (k / 2) (by omega)
    obtain e | e := Nat.mod_two_eq_zero_or_one k
    · rwa [show 2 * (k / 2) = k by omega] at hre
    · rwa [show 2 * (k / 2) + 1 = k by omega] at him

namespace SameToCommands

/-! ### What reads alike -/

theorem getP (h : s.SameToCommands t) (i : Fin 16) : s.getP i = t.getP i := by rw [State.getP, State.getP, h.P]

theorem idx (h : s.SameToCommands t) (i : Fin 16) : s.idx i = t.idx i := by rw [State.idx, State.idx, h.getP]

theorem toReal (h : s.SameToCommands t) (i : Fin 16) : s.real i = t.real i := h.getP i

theorem blockP (h : s.SameToCommands t) (base : Fin 16) (k : Nat) : s.blockP base k = t.blockP base k := by
  simp only [State.blockP, h.getP]

theorem getZ (h : s.SameToCommands t) (i : Fin 8) : s.getZ i = t.getZ i := by rw [State.getZ, State.getZ, h.Z]

theorem cap (h : s.SameToCommands t) : s.cap = t.cap := by rw [State.cap, State.cap, h.cfg]

theorem walshDim (h : s.SameToCommands t) : s.walshDim = t.walshDim := by rw [State.walshDim, State.walshDim, h.walsh.1]

theorem cell (h : s.SameToCommands t) (a b : Nat) : s.cell a b = t.cell a b := by
  rw [State.cell, State.cell, h.walsh.2, h.cfg]

theorem looksLike_real (h : s.SameToCommands t) (r : Fin 4) : Bank.LooksLike (.real r) 1 s.RB[r] t.RB[r] :=
  looksLike_real_iff.mpr ⟨h.rlen r, h.real r⟩

theorem looksLike_cplx (h : s.SameToCommands t) (b : Fin 4) : Bank.LooksLike (.cplx b) 2 s.CB[b] t.CB[b] :=
  looksLike_cplx_iff.mpr ⟨h.clen b, h.cplx b⟩

theorem readReal (h : s.SameToCommands t) {r : Fin 4} {k : Nat} (hk : k < s.rlen r) :
    s.readReal r k = t.readReal r k := (h.looksLike_real r).2 k (by rwa [one_mul])

theorem readCplxWord (h : s.SameToCommands t) {b : Fin 4} {k : Nat} (hk : k < 2 * s.clen b) :
    s.readCplxWord b k = t.readCplxWord b k := (h.looksLike_cplx b).2 k hk

theorem readCplx (h : s.SameToCommands t) {b : Fin 4} {k : Nat} (hk : k < s.clen b) :
    s.readCplx b k = t.readCplx b k := by
  rw [State.readCplx, State.readCplx, h.readCplxWord (by omega), h.readCplxWord (by omega)]

/-! ### What both go through -/

theorem setP (h : s.SameToCommands t) (i : Fin 16) (v : Word) : (s.setP i v).SameToCommands (t.setP i v) :=
  { h with P := congrArg (·.set i v) h.P }

theorem setBlockP (h : s.SameToCommands t) (base : Fin 16) (k : Nat) (v : Word) :
    (s.setBlockP base k v).SameToCommands (t.setBlockP base k v) := by
  unfold State.setBlockP
  split
  · exact h.setP _ v
  · exact h

theorem setZ (h : s.SameToCommands t) (i : Fin 8) (v : Cplx) : (s.setZ i v).SameToCommands (t.setZ i v) :=
  { h with Z := congrArg (·.set i v) h.Z }

theorem withRB (h : s.SameToCommands t) {r : Fin 4} {B C : Bank} (hB : Bank.LooksLike (.real r) 1 B C) :
    { s with RB := s.RB.set r B }.SameToCommands { t with RB := t.RB.set r C } :=
  have look (q : Fin 4) := looksLike_real_iff.mp
    (getElem_set_cases₂ (p := fun q => Bank.LooksLike (.real q) 1) s.RB t.RB r q B C hB (h.looksLike_real q))
  { h with rlen := fun q => (look q).1, real := fun q => (look q).2 }

theorem withCB (h : s.SameToCommands t) {b : Fin 4} {B C : Bank} (hB : Bank.LooksLike (.cplx b) 2 B C) :
    { s with CB := s.CB.set b B }.SameToCommands { t with CB := t.CB.set b C } :=
  have look (q : Fin 4) := looksLike_cplx_iff.mp
    (getElem_set_cases₂ (p := fun q => Bank.LooksLike (.cplx q) 2) s.CB t.CB b q B C hB (h.looksLike_cplx q))
  { h with clen := fun q => (look q).1, cplx := fun q => (look q).2 }

theorem setRealBuf (h : s.SameToCommands t) (r : Fin 4) (xs : List F32) :
    (s.setRealBuf r xs).SameToCommands (t.setRealBuf r xs) := h.withRB (Bank.looksLike_fresh (one_mul _))

theorem setCplxBuf (h : s.SameToCommands t) (b : Fin 4) (xs : List Cplx) :
    (s.setCplxBuf b xs).SameToCommands (t.setCplxBuf b xs) := h.withCB (Bank.looksLike_fresh (cplxWords_length xs).symm)

theorem updRealBuf (h : s.SameToCommands t) (r : Fin 4) (xs : List F32) :
    (s.updRealBuf r xs).SameToCommands (t.updRealBuf r xs) := h.withRB ((h.looksLike_real r).overwrite xs)

theorem updCplxBuf (h : s.SameToCommands t) (b : Fin 4) (xs : List Cplx) :
    (s.updCplxBuf b xs).SameToCommands (t.updCplxBuf b xs) := h.withCB ((h.looksLike_cplx b).overwrite (cplxWords xs))

theorem writeReal (h : s.SameToCommands t) (r : Fin 4) (k : Nat) (v : F32) :
    (s.writeReal r k v).SameToCommands (t.writeReal r k v) := h.withRB ((h.looksLike_real r).write k v)

theorem writeCplxWord (h : s.SameToCommands t) (b : Fin 4) (k : Nat) (v : Word) :
    (s.writeCplxWord b k v).SameToCommands (t.writeCplxWord b k v) := h.withCB ((h.looksLike_cplx b).write k v)

theorem writeCplx (h : s.SameToCommands t) (b : Fin 4) (k : Nat) (z : Cplx) :
    (s.writeCplx b k z).SameToCommands (t.writeCplx b k z) := (h.writeCplxWord b _ z.re).writeCplxWord b _ z.im

theorem newOrder (h : s.SameToCommands t) (n : Nat) :
    { s with WORD := n, WT := [] }.SameToCommands { t with WORD := n, WT := [] } := { h with walsh := ⟨rfl, rfl⟩ }

theorem touch (h : s.SameToCommands t) (a b : Nat) : (s.touch a b).SameToCommands (t.touch a b) := by
  unfold State.touch
  rw [h.cell]
  split
  · exact h
  · exact { h with walsh := ⟨h.walsh.1, by rw [h.walsh.1, h.walsh.2, h.cfg]⟩ }

theorem touchCells (h : s.SameToCommands t) (cells : List (Nat × Nat)) :
    (s.touchCells cells).SameToCommands (t.touchCells cells) :=
  List.foldl_rel h fun c _ _ _ hc => hc.touch c.1 c.2

theorem touchChain (h : s.SameToCommands t) (a b : Nat) : (s.touchChain a b).SameToCommands (t.touchChain a b) := by
  rw [touchChain_eq_touchCells, touchChain_eq_touchCells, h.walsh.1]
  exact h.touchCells _

theorem touchAll (h : s.SameToCommands t) : s.touchAll.SameToCommands t.touchAll := by
  rw [touchAll_eq_touchCells, touchAll_eq_touchCells, h.walshDim]
  exact h.touchCells _

theorem advance (h : s.SameToCommands t) : s.advance.SameToCommands t.advance := { h with pc := congrArg (· + 1) h.pc }

theorem takeFault (h : s.SameToCommands t) (c : Cause) (v : Nat) :
    (s.takeFault c v).SameToCommands (t.takeFault c v) := { h with STATE := rfl, record := ⟨rfl, h.pc, rfl⟩ }

theorem halted (h : s.SameToCommands t) : { s with STATE := .halted }.SameToCommands { t with STATE := .halted } :=
  { h with STATE := rfl }

end SameToCommands

end State

end Sys2Proof.Machine
end

section
/-! No command sees a sample at or beyond its bank's length (10_state R46): each makes the same checks and the same
updates in two states that look alike. -/

namespace Sys2Proof.Machine.State

open Sys2Proof

/-- Two checked sequences raise the same, or both end well in states that look alike. -/
inductive SameResult : Except Raise State → Except Raise State → Prop
  | ok {u v : State} (h : u.SameToCommands v) : SameResult (.ok u) (.ok v)
  | error (e : Raise) : SameResult (.error e) (.error e)

theorem SameResult.bind {α : Type} (m : Except Raise α) {k l : α → Except Raise State}
    (h : ∀ a, m = .ok a → SameResult (k a) (l a)) : SameResult (m >>= k) (m >>= l) := by
  cases m with
  | ok a => exact h a rfl
  | error e => exact .error e

/-- A part whose result both continue from alike, whatever it is: a check, most often. -/
theorem SameResult.seq {α : Type} {m : Except Raise α} {k l : α → Except Raise State}
    (h : ∀ a, SameResult (k a) (l a)) : SameResult (m >>= k) (m >>= l) := .bind m fun a _ => h a

/-- Two outcomes are next states that look alike. -/
def SameOutcome (o p : Host.Outcome State Fault Refusal) : Prop := ∃ u v, o = .next u ∧ p = .next v ∧ u.SameToCommands v

variable {s t u v : State}

namespace SameToCommands

theorem done (h : u.SameToCommands v) : SameOutcome (done u) (done v) := ⟨_, _, rfl, rfl, h.advance⟩

theorem finish (h : s.SameToCommands t) {r q : Except Raise State} (hr : SameResult r q) :
    SameOutcome (finish s r) (finish t q) := by
  cases hr with
  | ok hu => exact hu.done
  | error e => exact ⟨_, _, rfl, rfl, h.takeFault e.1 e.2⟩

theorem elementIndex (h : s.SameToCommands t) (pi : Fin 16) (n : Nat) : elementIndex s pi n = elementIndex t pi n := by
  simp only [Machine.elementIndex, h.idx]

theorem requireLift (h : s.SameToCommands t) (size l : Nat) : requireLift s size l = requireLift t size l := by
  simp only [Machine.requireLift, h.cap]

/-- A command that transforms a bank in place does the same to what both states show of it. -/
theorem inPlace (h : s.SameToCommands t) (cb : Fin 4) (f : List Cplx → List Cplx) :
    SameOutcome (Machine.finish s (inPlace s cb f)) (Machine.finish t (inPlace t cb f)) := by
  simp only [Machine.inPlace, h.clen, h.cplx]
  exact h.finish (.seq fun _ => .ok (h.updCplxBuf cb _))

/-- What a command sees of one state it sees of the other, so it makes the same checks; what it then writes, it writes
in both. -/
theorem exec (h : s.SameToCommands t) (i : Instr) : SameOutcome (exec i s) (exec i t) := by
  have twiddle : s.cfg.twiddle = t.cfg.twiddle := by rw [h.cfg]
  have hilNyq : s.cfg.hilNyq = t.cfg.hilNyq := by rw [h.cfg]
  have walshNeg : s.cfg.walshNeg = t.cfg.walshNeg := by rw [h.cfg]
  have wLogDim : s.cfg.wLogDim = t.cfg.wLogDim := by rw [h.cfg]
  cases i <;> simp only [Machine.exec, execNop, execSetlo, execSethi, execMovp, execCcopy, execRcopy, execCzero,
    execRzero, execRld, execRst, execZmk, execZre, execZim, execZld, execZst, execZadd, execZsub, execZmul, execZdiv,
    execZdivs, execZmag, execZphase, execZnorm, execZisz, execZconj, execBitrev, execBfly, execFft, execIfft, execTwid,
    execLift, execRfft, execRfftg, execRealp, execBpedge, execBpmask, execBpf, execCmulv, execConv, execConjv, execWhiten,
    execXcinit, execXcorr, execZstuff, execDecim, execResamp, execHrot, execHilb, execWords, execWget, execWfill,
    h.getP, h.idx, h.toReal, h.blockP, h.getZ, h.cap, h.rlen, h.real, h.clen, h.cplx, h.walsh.1, h.walshDim,
    h.elementIndex, h.requireLift, twiddle, hilNyq, walshNeg, wLogDim]
  case nop => exact h.done
  case halt => exact ⟨_, _, rfl, rfl, h.halted⟩
  case setlo | sethi | movp | zre | zim | zmag | zphase | zisz => exact (h.setP _ _).done
  case zmk | zadd | zsub | zmul | znorm | zconj => exact (h.setZ _ _).done
  case conjv | whiten => exact (h.updCplxBuf _ _).done
  case realp => exact (h.setRealBuf _ _).done
  case ccopy =>
    split
    · exact h.done
    · exact (h.setCplxBuf _ _).done
  case rcopy =>
    split
    · exact h.done
    · exact (h.setRealBuf _ _).done
  case bitrev | bfly | fft | ifft | hrot => exact h.inPlace _ _
  case czero => exact h.finish (.seq fun _ => .ok (h.setCplxBuf _ _))
  case rzero => exact h.finish (.seq fun _ => .ok (h.setRealBuf _ _))
  case rld rs pi =>
    refine h.finish (.bind _ fun k hk => ?_)
    obtain ⟨rfl, hk⟩ := elementIndex_eq_ok.mp hk
    rw [h.readReal (by rwa [h.rlen])]
    exact .ok (h.setP _ _)
  case zld =>
    refine h.finish (.bind _ fun k hk => ?_)
    obtain ⟨rfl, hk⟩ := elementIndex_eq_ok.mp hk
    rw [h.readCplx (by rwa [h.clen])]
    exact .ok (h.setZ _ _)
  case rst => exact h.finish (.seq fun _ => .ok (h.writeReal _ _ _))
  case zst => exact h.finish (.seq fun _ => .ok (h.writeCplx _ _ _))
  case zdiv | zdivs => exact h.finish (.seq fun _ => .ok (h.setZ _ _))
  case twid => exact h.finish (.seq fun _ => .seq fun _ => .ok (h.setZ _ _))
  case lift | rfft | xcinit | hilb => exact h.finish (.seq fun _ => .ok (h.setCplxBuf _ _))
  case rfftg =>
    exact h.finish (.seq fun _ => .seq fun _ => .seq fun _ => .seq fun _ => .seq fun _ =>
      .ok ((h.setCplxBuf _ _).setCplxBuf _ _))
  case bpedge =>
    exact h.finish (.seq fun _ => .seq fun _ => .seq fun _ =>
      .ok ((((h.setBlockP _ 0 _).setBlockP _ 1 _).setBlockP _ 2 _).setBlockP _ 3 _))
  case bpmask =>
    exact h.finish (.seq fun _ => .seq fun _ => .seq fun _ => .ok (h.updCplxBuf _ _))
  case bpf => exact h.finish (.seq fun _ => .seq fun _ => .ok (h.updCplxBuf _ _))
  case cmulv => exact h.finish (.seq fun _ => .ok (h.updCplxBuf _ _))
  case conv =>
    exact h.finish (.seq fun _ => .seq fun _ => .seq fun _ =>
      .ok (((h.setCplxBuf _ _).setCplxBuf _ _).setRealBuf _ _))
  case xcorr =>
    exact h.finish (.seq fun _ => .seq fun _ => .seq fun _ =>
      .ok ((h.setCplxBuf _ _).updRealBuf _ _))
  case zstuff =>
    exact h.finish (.seq fun _ => .seq fun _ => .seq fun _ => .seq fun _ => .seq fun _ =>
      .ok (h.setCplxBuf _ _))
  case decim => exact h.finish (.seq fun _ => .seq fun _ => .ok (h.setRealBuf _ _))
  case resamp =>
    exact h.finish (.seq fun _ => .seq fun _ => .seq fun _ => .seq fun _ => .seq fun _ =>
      .seq fun _ => .seq fun _ => .seq fun _ =>
        .ok (((h.setCplxBuf _ _).setCplxBuf _ _).setRealBuf _ _))
  case words => exact h.finish (.seq fun _ => .ok (h.newOrder _))
  case wget =>
    exact h.finish (.seq fun _ => .seq fun _ => .seq fun _ => .ok ((h.touchChain _ _).setP _ _))
  case wfill => exact h.finish (.seq fun _ => .ok h.touchAll)

end SameToCommands

/-- Settles O56: a command answers a next state in both, and these look alike. -/
theorem unseenSamples : Obligations.UnseenSamples := by
  intro i s s' t h he
  obtain ⟨u, v, hu, hv, huv⟩ := h.exec i
  cases he.symm.trans hu
  exact ⟨v, hv, huv⟩

end Sys2Proof.Machine.State
end

section
/-! What a reset leaves (10_state R60), and the control words as the host reads and writes them (R35 to R40). -/

namespace Sys2Proof.Machine.State

open Sys2Proof

/-! ### Reset -/

/-- Settles O1: both resets are `resetWith` of the same parameters, up to the host's side and the unspecified words. -/
theorem resetValues : Obligations.ResetValues := by
  rintro u s (rfl | rfl) <;>
    exact ⟨fun i => by simp [getP, restart, resetWith], rfl, fun i => by simp [getZ, restart, resetWith, Cplx.zero], rfl,
      rfl, rfl, rfl, rfl, fun r => by simp [rlen, restart, resetWith, Bank.reset, Bank.cleared],
      fun b => by simp [clen, restart, resetWith, Bank.reset, Bank.cleared], rfl, fun _ _ => rfl, rfl, rfl, rfl,
      fun _ _ _ => rfl⟩

/-! ### `CTRL` -/

variable {s : State}

/-- Bits 31:4 of a `CTRL` write are dropped (R35). -/
theorem writeCtrl_congr {v w : Word} (h : ∀ k, k < 4 → v.getLsbD k = w.getLsbD k) : s.writeCtrl v = s.writeCtrl w := by
  rw [writeCtrl_eq, writeCtrl_eq, clearBy, clearBy, startBy, startBy, h 0 (by decide), h 1 (by decide), h 2 (by decide),
    h 3 (by decide)]

@[simp] theorem clearBy_IE (s : State) (v : Word) : (s.clearBy v).IE = s.IE := by
  unfold clearBy
  split <;> rfl

@[simp] theorem startBy_IE (s : State) (v : Word) : (s.startBy v).IE = s.IE := by
  unfold startBy
  split <;> rfl

theorem writeCtrl_IE (s : State) (v : Word) : (s.writeCtrl v).IE = v.getLsbD 3 := by
  rw [writeCtrl_eq]
  split
  · rfl
  · simp

/-! ### `STATUS` and `CAPR` -/

/-- The fields of `STATUS` (R36). -/
theorem statusWord_fields (s : State) :
    s.statusWord.extractLsb' 0 2 = BitVec.ofNat 2 s.STATE.code ∧ s.statusWord.getLsbD 2 = s.irq ∧
    s.statusWord.getLsbD 3 = s.wfull ∧ s.statusWord.extractLsb' 4 28 = 0#28 := by
  unfold statusWord
  cases s.STATE <;> cases s.irq <;> cases s.wfull <;> exact ⟨rfl, rfl, rfl, rfl⟩

theorem wfull_iff (s : State) : s.wfull = true ↔
    s.WORD ≠ 0 ∧ ∀ i j, i < 2 ^ (s.WORD - 1) → j < 2 ^ (s.WORD - 1) → (s.cell i j).isSome = true := by
  simp only [wfull, walshDim, Bool.and_eq_true, bne_iff_ne, List.all_eq_true, List.mem_range]
  exact and_congr_right fun _ => ⟨fun h i j hi hj => h i hi j hj, fun h i hi j hj => h i j hi hj⟩

/-- A field of `CAPR`, read as a number. -/
theorem caprWord_field (s : State) (lo n : Nat) (h : s.cfg.wf = true) :
    (s.caprWord.extractLsb' lo n).toNat =
      (s.cfg.logCap + s.cfg.logCmd * 2 ^ 8 + s.cfg.wLogDim * 2 ^ 16) / 2 ^ lo % 2 ^ n := by
  simp only [Config.Params.wf, Bool.and_eq_true, decide_eq_true_eq] at h
  rw [BitVec.extractLsb'_toNat, caprWord, BitVec.toNat_ofNat, Nat.shiftRight_eq_div_pow, Nat.mod_eq_of_lt (b := 2 ^ 32)]
  omega

theorem caprWord_fields (s : State) (h : s.cfg.wf = true) :
    s.caprWord.extractLsb' 0 5 = BitVec.ofNat 5 s.cfg.logCap ∧ s.caprWord.extractLsb' 5 3 = 0#3 ∧
    s.caprWord.extractLsb' 8 5 = BitVec.ofNat 5 s.cfg.logCmd ∧ s.caprWord.extractLsb' 13 3 = 0#3 ∧
    s.caprWord.extractLsb' 16 5 = BitVec.ofNat 5 s.cfg.wLogDim ∧ s.caprWord.extractLsb' 21 11 = 0#11 := by
  have hw := h
  simp only [Config.Params.wf, Bool.and_eq_true, decide_eq_true_eq] at hw
  refine ⟨?_, ?_, ?_, ?_, ?_, ?_⟩ <;> apply BitVec.eq_of_toNat_eq <;>
    rw [caprWord_field s _ _ h, BitVec.toNat_ofNat] <;> omega

/-! ### The control words -/

theorem writeHostWord_readOnly (s : State) (v : Word) {a : Nat} (h1 : 1 ≤ a) (h9 : a ≤ 9) :
    s.writeHostWord v (locate s.cfg a) = s := by
  interval_cases a <;> rfl

/-- Settles O10: each word of the map by what it holds, `STATUS` and `CAPR` field by field. -/
theorem controlRegisters : Obligations.ControlRegisters := by
  intro s hs
  obtain ⟨hstate, hirq, hfull, hzero⟩ := s.statusWord_fields
  obtain ⟨hcap, hcap', hcmd, hcmd', hdim, hdim'⟩ := s.caprWord_fields hs
  refine ⟨rfl, fun v w => writeCtrl_congr, s.writeCtrl_IE, fun v a => s.writeHostWord_readOnly v, ?_, hirq, ?_, hzero, rfl,
    ?_, rfl, rfl, rfl, rfl, hcap, hcap', hcmd, hcmd', hdim, hdim', rfl⟩
  · refine hstate.trans ?_
    cases s.STATE <;> rfl
  · exact (Bool.coe_iff_coe.mpr hfull).trans s.wfull_iff
  · show causeWord s.FCAUSE = _
    cases s.FCAUSE <;> rfl

end Sys2Proof.Machine.State
end

section
/-! A run with no host turn to come (20_memory R85): each engine step ends it or advances `pc`, and `pc` cannot pass
`CMDCAP`. -/

namespace Sys2Proof.Machine

open Sys2Proof

theorem State.SameToCommands.refl (s : State) : s.SameToCommands s :=
  ⟨rfl, rfl, rfl, rfl, rfl, ⟨rfl, rfl, rfl⟩, fun _ => rfl, fun _ => rfl, fun _ => rfl, fun _ => rfl, fun _ => rfl,
    ⟨rfl, rfl⟩, rfl, ⟨rfl, rfl⟩⟩

/-- No command stops the machine (60_exceptions R371). -/
theorem exec_next (i : Instr) (s : State) : ∃ t, exec i s = .next t := by
  obtain ⟨t, -, h, -⟩ := (State.SameToCommands.refl s).exec i
  exact ⟨t, h⟩

theorem step_of_no_host {s : State} (h : s.host = []) : step s = engineStep s := by rw [step, h]

theorem run_succ_of_step {s t : State} (h : step s = .next t) (n : Nat) :
    Host.Core.run core (n + 1) s = Host.Core.run core n t := by
  simp only [Host.Core.run, show core.step s = .next t from h]

namespace State

variable {s : State}

/-- What the engine's step does in `RUN` (40_sequencer_and_move R130): it ends the run, or, where `pc` is within the
command memory, it goes on with `pc + 1`. -/
theorem engineStep_run (hrun : s.STATE = .run) : ∃ t, engineStep s = .next t ∧
    (t.Ended ∨ s.pc < s.cfg.cmdCap ∧ t.pc = s.pc + 1 ∧ t.STATE = .run ∧ t.cfg = s.cfg ∧ t.host = s.host) := by
  unfold engineStep
  rw [hrun]
  dsimp only
  split
  next i hf =>
    obtain ⟨t, ht⟩ := exec_next i s
    refine ⟨t, ht, ?_⟩
    cases exec_ends ht with
    | halted => exact .inl (.inl rfl)
    | faulted => exact .inl (.inr rfl)
    | completed hu =>
      obtain ⟨_, _, _, _, _, _, rfl⟩ := hu.frame
      exact .inr ⟨fetch_eq_ok hf, rfl, hrun, rfl, rfl⟩
  next c v _ => exact ⟨_, rfl, .inl (.inr rfl)⟩

/-- Settles O58, by induction on the distance from `pc` to `CMDCAP`, where no step can go on. -/
theorem runEnds : Obligations.RunEnds := by
  intro s hhost hrun hpc
  induction hk : s.cfg.cmdCap - s.pc generalizing s with
  | zero =>
    obtain ⟨t, ht, hend | ⟨hlt, -⟩⟩ := engineStep_run hrun
    · rw [← step_of_no_host hhost] at ht
      exact ⟨1, t, by omega, run_succ_of_step ht 0, hend⟩
    · omega
  | succ k ih =>
    obtain ⟨t, ht, h⟩ := engineStep_run hrun
    rw [← step_of_no_host hhost] at ht
    obtain hend | ⟨hlt, hpc', hrun', hcfg, hhost'⟩ := h
    · exact ⟨1, t, by omega, run_succ_of_step ht 0, hend⟩
    · obtain ⟨n, u, hn, hu, hend⟩ :=
        ih t (hhost'.trans hhost) hrun' (by rw [hpc', hcfg]; exact hlt) (by rw [hpc', hcfg]; omega)
      exact ⟨n + 1, u, by omega, (run_succ_of_step ht n).trans hu, hend⟩

end State

end Sys2Proof.Machine
end

section
/-! The host word map (20_memory R81): at which index each word stands, and which word an index names. -/

namespace Sys2Proof.Machine

open Sys2Proof

/-- The index the map gives a word. A reserved word has none of its own. -/
def HostWord.address : HostWord → Nat
  | .ctrl => 0x0000
  | .status => 0x0001
  | .pcr => 0x0002
  | .fcause => 0x0003
  | .fpc => 0x0004
  | .finfo => 0x0005
  | .wordr => 0x0006
  | .id => 0x0007
  | .capr => 0x0008
  | .rev => 0x0009
  | .p i => 0x0010 + i
  | .zre i => 0x0020 + 2 * i
  | .zim i => 0x0021 + 2 * i
  | .rlen r => 0x0030 + r
  | .clen b => 0x0034 + b
  | .cm a => 0x00010000 + a
  | .rb r i => 0x10000000 + r * 0x01000000 + i
  | .cb b w => 0x20000000 + b * 0x02000000 + w
  | .wt key => 0x30000000 + key
  | .reserved => 0

/-- Index `a` may name `w`: it is the index of `w`, or `w` is reserved. -/
def HostWord.NamedBy (a : Nat) (w : HostWord) : Prop := w = .reserved ∨ w.address = a

/-! ### An index names no word but the one it is the index of -/

theorem locateControl_namedBy (a : Nat) : (locateControl a).NamedBy a := by
  unfold locateControl
  split <;> simp [HostWord.NamedBy, HostWord.address]

theorem locateRegister_namedBy {a : Nat} (h : 0x10 ≤ a) : (locateRegister a).NamedBy a := by
  unfold locateRegister
  split_ifs <;> simp only [HostWord.NamedBy, HostWord.address, reduceCtorEq, false_or, true_or] <;> omega

theorem locateReal_namedBy (c : Config.Params) (off : Nat) : (locateReal c off).NamedBy (0x10000000 + off) := by
  unfold locateReal
  split_ifs <;> simp only [HostWord.NamedBy, HostWord.address, reduceCtorEq, false_or, true_or]
  omega

theorem locateCplx_namedBy (c : Config.Params) (off : Nat) : (locateCplx c off).NamedBy (0x20000000 + off) := by
  unfold locateCplx
  split_ifs <;> simp only [HostWord.NamedBy, HostWord.address, reduceCtorEq, false_or, true_or]
  omega

theorem locate_namedBy (c : Config.Params) (a : Nat) : (locate c a).NamedBy a := by
  unfold locate
  split_ifs with hctl hreg hgap hcm hk hrb hcb hwt
  · exact locateControl_namedBy a
  · exact locateRegister_namedBy (not_lt.mp hctl)
  · exact .inl rfl
  · exact .inr (Nat.add_sub_cancel' (not_lt.mp hgap))
  · exact .inl rfl
  · simpa only [Nat.add_sub_cancel' (not_lt.mp hcm)] using locateReal_namedBy c (a - 0x10000000)
  · simpa only [Nat.add_sub_cancel' (not_lt.mp hrb)] using locateCplx_namedBy c (a - 0x20000000)
  · exact .inr (Nat.add_sub_cancel' (not_lt.mp hcb))
  · exact .inl rfl

/-! ### The windows -/

theorem locate_register (c : Config.Params) {a : Nat} (h1 : 0x0010 ≤ a) (h2 : a < 0x0038) :
    locate c a = locateRegister a := by
  rw [locate, if_neg (by omega), if_pos h2]

theorem locate_command (c : Config.Params) {k : Nat} (h : k < 0x0FFF0000) :
    locate c (0x00010000 + k) = if k < c.cmdCap then .cm k else .reserved := by
  rw [locate, if_neg (by omega), if_neg (by omega), if_neg (by omega), if_pos (by omega), Nat.add_sub_cancel_left]

theorem locate_real (c : Config.Params) {off : Nat} (h : off < 0x10000000) :
    locate c (0x10000000 + off) = locateReal c off := by
  rw [locate, if_neg (by omega), if_neg (by omega), if_neg (by omega), if_neg (by omega), if_pos (by omega),
    Nat.add_sub_cancel_left]

theorem locate_cplx (c : Config.Params) {off : Nat} (h : off < 0x10000000) :
    locate c (0x20000000 + off) = locateCplx c off := by
  rw [locate, if_neg (by omega), if_neg (by omega), if_neg (by omega), if_neg (by omega), if_neg (by omega),
    if_pos (by omega), Nat.add_sub_cancel_left]

theorem locate_walsh (c : Config.Params) (k : Nat) :
    locate c (0x30000000 + k) = if k < c.wDim * c.wDim then .wt k else .reserved := by
  rw [locate, if_neg (by omega), if_neg (by omega), if_neg (by omega), if_neg (by omega), if_neg (by omega),
    if_neg (by omega), Nat.add_sub_cancel_left]

theorem locateRegister_p : ∀ i : Fin 16, locateRegister (0x0010 + i) = .p i := by decide

theorem locateRegister_z :
    ∀ i : Fin 8, locateRegister (0x0020 + 2 * i) = .zre i ∧ locateRegister (0x0021 + 2 * i) = .zim i := by decide

theorem locateRegister_len :
    ∀ r : Fin 4, locateRegister (0x0030 + r) = .rlen r ∧ locateRegister (0x0034 + r) = .clen r := by decide

section

variable {c : Config.Params}

theorem cap_le_of_wf (h : c.wf = true) : c.cap ≤ 0x01000000 := by
  simp only [Config.Params.wf, Bool.and_eq_true, decide_eq_true_eq] at h
  exact Nat.pow_le_pow_right (n := 2) (j := 24) (by decide) (by omega)

theorem cmdCap_le_of_wf (h : c.wf = true) : c.cmdCap ≤ 0x00010000 := by
  simp only [Config.Params.wf, Bool.and_eq_true, decide_eq_true_eq] at h
  exact Nat.pow_le_pow_right (n := 2) (j := 16) (by decide) (by omega)

theorem locate_cm (h : c.wf = true) {a : Nat} (ha : a < c.cmdCap) : locate c (0x00010000 + a) = .cm a := by
  have := cmdCap_le_of_wf h
  rw [locate_command c (by omega), if_pos ha]

theorem locate_rb (h : c.wf = true) (r : Fin 4) {i : Nat} (hi : i < c.cap) :
    locate c (0x10000000 + r * 0x01000000 + i) = .rb r i := by
  have hcap := cap_le_of_wf h
  have hbank : (r * 0x01000000 + i) / 0x01000000 = r := by omega
  have hword : (r * 0x01000000 + i) % 0x01000000 = i := by omega
  rw [Nat.add_assoc, locate_real c (by omega)]
  simp [locateReal, hbank, hword, hi]

theorem locate_cb (h : c.wf = true) (b : Fin 4) {w : Nat} (hw : w < 2 * c.cap) :
    locate c (0x20000000 + b * 0x02000000 + w) = .cb b w := by
  have hcap := cap_le_of_wf h
  have hbank : (b * 0x02000000 + w) / 0x02000000 = b := by omega
  have hword : (b * 0x02000000 + w) % 0x02000000 = w := by omega
  rw [Nat.add_assoc, locate_cplx c (by omega)]
  simp [locateCplx, hbank, hword, hw]

theorem locate_wt {i j : Nat} (hi : i < c.wDim) (hj : j < c.wDim) :
    locate c (0x30000000 + i * c.wDim + j) = .wt (i * c.wDim + j) := by
  have hkey : i * c.wDim + j < c.wDim * c.wDim := by
    calc i * c.wDim + j < (i + 1) * c.wDim := by rw [Nat.succ_mul]; omega
      _ ≤ c.wDim * c.wDim := Nat.mul_le_mul_right _ hi
  rw [Nat.add_assoc, locate_walsh, if_pos hkey]

theorem lt_of_locate_eq_wt {a k : Nat} (h : locate c a = .wt k) : k < c.wDim * c.wDim := by
  obtain hr | ha := locate_namedBy c a
  · rw [h] at hr
    cases hr
  · rw [h] at ha
    rw [← ha, HostWord.address, locate_walsh] at h
    split at h
    · assumption
    · cases h

/-- Every index that is not reserved lies in one of the rows of R81. -/
theorem locate_rows (c : Config.Params) (a : Nat) :
    locate c a = .reserved ∨ a < 0x000A ∨ (0x0010 ≤ a ∧ a < 0x0038) ∨
      (0x00010000 ≤ a ∧ a < 0x00010000 + c.cmdCap) ∨
      (∃ r i, r < 4 ∧ i < c.cap ∧ a = 0x10000000 + r * 0x01000000 + i) ∨
      (∃ b i, b < 4 ∧ i < 2 * c.cap ∧ a = 0x20000000 + b * 0x02000000 + i) ∨
      ∃ i j, i < c.wDim ∧ j < c.wDim ∧ a = 0x30000000 + i * c.wDim + j := by
  obtain hr | ha := locate_namedBy c a
  · exact .inl hr
  have hin := locate_inMap c a
  cases hw : locate c a <;> rw [hw] at ha hin <;> simp only [HostWord.address] at ha
  case reserved => exact .inl rfl
  case cm k => exact .inr (.inr (.inr (.inl ⟨by omega, by rw [← ha]; exact Nat.add_lt_add_left hin _⟩)))
  case rb r i => exact .inr (.inr (.inr (.inr (.inl ⟨r, i, r.isLt, hin, ha.symm⟩))))
  case cb b i => exact .inr (.inr (.inr (.inr (.inr (.inl ⟨b, i, b.isLt, hin, ha.symm⟩)))))
  case wt k =>
    have hk := lt_of_locate_eq_wt hw
    have hpos : 0 < c.wDim := Nat.pos_of_lt_mul_left hk
    refine .inr (.inr (.inr (.inr (.inr (.inr
      ⟨k / c.wDim, k % c.wDim, Nat.div_lt_of_lt_mul hk, Nat.mod_lt k hpos, ?_⟩)))))
    rw [Nat.add_assoc, Nat.div_add_mod', ha]
  case p | zre | zim | rlen | clen => exact .inr (.inr (.inl (by omega)))
  all_goals exact .inr (.inl (by omega))

end

end Sys2Proof.Machine
end

section
/-! What a host write leaves in each word (20_memory R81, 10_state R43): a read-write word takes the value alone, a length
register keeps the samples below both lengths, every other word drops the write. -/

namespace Sys2Proof.Machine.State

open Sys2Proof

variable {s : State}

/-! ### A word of a bank -/

@[simp] theorem readReal_writeReal_same (s : State) (r : Fin 4) (i : Nat) (v : F32) :
    (s.writeReal r i v).readReal r i = v := by simp [readReal]

theorem readReal_writeReal_ne (s : State) {r q : Fin 4} {i k : Nat} (v : F32) (h : q = r → k ≠ i) :
    (s.writeReal r i v).readReal q k = s.readReal q k := by
  by_cases hr : (r : Nat) = q
  · obtain rfl := Fin.ext hr
    simp [readReal, Mem.read_write_ne _ _ _ (h rfl)]
  · simp [readReal, hr]

@[simp] theorem rlen_writeReal (s : State) (r q : Fin 4) (i : Nat) (v : F32) :
    (s.writeReal r i v).rlen q = s.rlen q := by
  by_cases hr : (r : Nat) = q
  · obtain rfl := Fin.ext hr
    simp [rlen]
  · simp [rlen, hr]

@[simp] theorem readCplxWord_writeCplxWord_same (s : State) (b : Fin 4) (i : Nat) (v : Word) :
    (s.writeCplxWord b i v).readCplxWord b i = v := by simp [readCplxWord]

theorem readCplxWord_writeCplxWord_ne (s : State) {b q : Fin 4} {i k : Nat} (v : Word) (h : q = b → k ≠ i) :
    (s.writeCplxWord b i v).readCplxWord q k = s.readCplxWord q k := by
  by_cases hb : (b : Nat) = q
  · obtain rfl := Fin.ext hb
    simp [readCplxWord, Mem.read_write_ne _ _ _ (h rfl)]
  · simp [readCplxWord, hb]

@[simp] theorem clen_writeCplxWord (s : State) (b q : Fin 4) (i : Nat) (v : Word) :
    (s.writeCplxWord b i v).clen q = s.clen q := by
  by_cases hb : (b : Nat) = q
  · obtain rfl := Fin.ext hb
    simp [clen]
  · simp [clen, hb]

/-! ### Read-write words -/

/-- From `s` to `t` the host word `w` has become `v`, and no other word and no length has changed. -/
structure WordBecomes (s t : State) (w : HostWord) (v : Word) : Prop where
  reads  : t.hostWord w = v
  rlen   : ∀ r, t.rlen r = s.rlen r
  clen   : ∀ b, t.clen b = s.clen b
  others : ∀ u, u ≠ w → t.hostWord u = s.hostWord u

theorem setP_wordBecomes (s : State) (i : Fin 16) (v : Word) : WordBecomes s (s.setP i v) (.p i) v where
  reads := getP_setP_same s i v
  rlen _ := rfl
  clen _ := rfl
  others u hu := by
    cases u with
    | p j => exact getP_setP_ne s v fun e => hu (congrArg _ e)
    | _ => rfl

theorem setZ_re_wordBecomes (s : State) (i : Fin 8) (v : Word) :
    WordBecomes s (s.setZ i { s.getZ i with re := v }) (.zre i) v where
  reads := congrArg Cplx.re (getZ_setZ_same s i _)
  rlen _ := rfl
  clen _ := rfl
  others u hu := by
    cases u with
    | zre j => exact congrArg Cplx.re (getZ_setZ_ne s _ fun e => hu (congrArg _ e))
    | zim j =>
      by_cases hj : j = i
      · rw [hj]
        exact (congrArg Cplx.im (getZ_setZ_same s i _)).trans rfl
      · exact congrArg Cplx.im (getZ_setZ_ne s _ hj)
    | _ => rfl

theorem setZ_im_wordBecomes (s : State) (i : Fin 8) (v : Word) :
    WordBecomes s (s.setZ i { s.getZ i with im := v }) (.zim i) v where
  reads := congrArg Cplx.im (getZ_setZ_same s i _)
  rlen _ := rfl
  clen _ := rfl
  others u hu := by
    cases u with
    | zim j => exact congrArg Cplx.im (getZ_setZ_ne s _ fun e => hu (congrArg _ e))
    | zre j =>
      by_cases hj : j = i
      · rw [hj]
        exact (congrArg Cplx.re (getZ_setZ_same s i _)).trans rfl
      · exact congrArg Cplx.re (getZ_setZ_ne s _ hj)
    | _ => rfl

theorem writeCM_wordBecomes (s : State) (a : Nat) (v : Word) :
    WordBecomes s { s with CM := s.CM.write a v } (.cm a) v where
  reads := Mem.read_write_same _ _ a v
  rlen _ := rfl
  clen _ := rfl
  others u hu := by
    cases u with
    | cm k => exact Mem.read_write_ne _ _ v fun e => hu (congrArg _ e)
    | _ => rfl

theorem writeReal_wordBecomes (s : State) (r : Fin 4) (i : Nat) (v : Word) :
    WordBecomes s (s.writeReal r i v) (.rb r i) v where
  reads := readReal_writeReal_same s r i v
  rlen q := rlen_writeReal s r q i v
  clen _ := rfl
  others u hu := by
    cases u with
    | rb q k => exact readReal_writeReal_ne s v fun hq hk => hu (by rw [hq, hk])
    | rlen q => exact congrArg (BitVec.ofNat 32) (rlen_writeReal s r q i v)
    | _ => rfl

theorem writeCplxWord_wordBecomes (s : State) (b : Fin 4) (i : Nat) (v : Word) :
    WordBecomes s (s.writeCplxWord b i v) (.cb b i) v where
  reads := readCplxWord_writeCplxWord_same s b i v
  rlen _ := rfl
  clen q := clen_writeCplxWord s b q i v
  others u hu := by
    cases u with
    | cb q k => exact readCplxWord_writeCplxWord_ne s v fun hq hk => hu (by rw [hq, hk])
    | clen q => exact congrArg (BitVec.ofNat 32) (clen_writeCplxWord s b q i v)
    | _ => rfl

theorem writeHostWord_wordBecomes (s : State) (v : Word) {w : HostWord}
    (hw : (∃ i, w = .p i) ∨ (∃ i, w = .zre i) ∨ (∃ i, w = .zim i) ∨ (∃ a, w = .cm a) ∨ (∃ r i, w = .rb r i) ∨
      ∃ b i, w = .cb b i) : WordBecomes s (s.writeHostWord v w) w v := by
  obtain ⟨i, rfl⟩ | ⟨i, rfl⟩ | ⟨i, rfl⟩ | ⟨a, rfl⟩ | ⟨r, i, rfl⟩ | ⟨b, i, rfl⟩ := hw
  · exact setP_wordBecomes s i v
  · exact setZ_re_wordBecomes s i v
  · exact setZ_im_wordBecomes s i v
  · exact writeCM_wordBecomes s a v
  · exact writeReal_wordBecomes s r i v
  · exact writeCplxWord_wordBecomes s b i v

/-! ### Words that drop a write -/

theorem writeHostWord_dropped (s : State) (v : Word) {w : HostWord}
    (hw : w ∈ [.status, .pcr, .fcause, .fpc, .finfo, .wordr, .id, .capr, .rev, .reserved] ∨ ∃ k, w = .wt k) :
    s.writeHostWord v w = s := by
  simp only [List.mem_cons, List.not_mem_nil, or_false] at hw
  rcases hw with (rfl | rfl | rfl | rfl | rfl | rfl | rfl | rfl | rfl | rfl) | ⟨k, rfl⟩ <;> rfl

/-! ### Length registers -/

theorem writeHostWord_rlen_dropped (v : Word) (r : Fin 4) (h : s.cap < v.toNat) : s.writeHostWord v (.rlen r) = s :=
  if_neg (not_le.mpr h)

theorem writeHostWord_clen_dropped (v : Word) (b : Fin 4) (h : s.cap < v.toNat) : s.writeHostWord v (.clen b) = s :=
  if_neg (not_le.mpr h)

theorem hostWord_rlen_writeHostWord {v : Word} (r : Fin 4) (h : v.toNat ≤ s.cap) :
    (s.writeHostWord v (.rlen r)).hostWord (.rlen r) = v := by
  rw [writeHostWord_rlen s v r h]
  simp [hostWord, rlen]

theorem hostWord_clen_writeHostWord {v : Word} (b : Fin 4) (h : v.toNat ≤ s.cap) :
    (s.writeHostWord v (.clen b)).hostWord (.clen b) = v := by
  rw [writeHostWord_clen s v b h]
  simp [hostWord, clen]

/-- A write to `RLEN[r]` within `CAP` keeps the samples below the new length. -/
theorem writeHostWord_rlen_bank {v : Word} (r : Fin 4) (h : v.toNat ≤ s.cap) :
    ∃ B, s.writeHostWord v (.rlen r) = { s with RB := s.RB.set r B } ∧ B.len = v.toNat ∧
      ∀ i, i < s.rlen r → i < v.toNat → B.mem.read (.real r) i = s.readReal r i :=
  ⟨_, writeHostWord_rlen s v r h, hostLength_len _ _ _ _,
    fun _ _ hi => hostLength_read_below _ 1 _ _ (by rwa [Nat.one_mul])⟩

/-- A write to `CLEN[b]` within `CAP` keeps both words of the samples below the new length. -/
theorem writeHostWord_clen_bank {v : Word} (b : Fin 4) (h : v.toNat ≤ s.cap) :
    ∃ B, s.writeHostWord v (.clen b) = { s with CB := s.CB.set b B } ∧ B.len = v.toNat ∧
      ∀ i, i < s.clen b → i < v.toNat →
        B.mem.read (.cplx b) (2 * i) = (s.readCplx b i).re ∧ B.mem.read (.cplx b) (2 * i + 1) = (s.readCplx b i).im :=
  ⟨_, writeHostWord_clen s v b h, hostLength_len _ _ _ _, fun _ _ hi =>
    ⟨hostLength_read_below _ 2 _ _ (by omega), hostLength_read_below _ 2 _ _ (by omega)⟩⟩

/-- Settles O11: the rows by their windows, the reserved indices by `locate_rows`, the writes word by word. -/
theorem hostMap : Obligations.HostMap := by
  refine ⟨fun c hc => ⟨rfl, fun i => ?_, fun i => ?_, fun r => ?_, fun a => locate_cm hc, fun r i => locate_rb hc r,
      fun b i hi => ?_, fun i j => locate_wt, fun a _ => locate_rows c a⟩,
    fun s => ⟨rfl, fun _ => rfl, fun _ => rfl, fun _ => rfl, fun _ => rfl, fun _ => rfl, fun _ => rfl, fun _ _ => rfl,
      fun _ _ => rfl, fun _ _ => rfl, fun i j => ?_⟩,
    fun s v w => s.writeHostWord_dropped v, fun s v w hw => ?_, fun s v r => ⟨fun h => ?_, fun h => ?_⟩⟩
  · rw [locate_register c (by omega) (by omega), locateRegister_p]
  · rw [locate_register c (by omega) (by omega), locate_register c (by omega) (by omega)]
    exact locateRegister_z i
  · rw [locate_register c (by omega) (by omega), locate_register c (by omega) (by omega)]
    exact locateRegister_len r
  · exact ⟨locate_cb hc b (by omega), locate_cb hc b (w := 2 * i + 1) (by omega)⟩
  · show cellWord (s.cell i j) = _
    rcases s.cell i j with _ | _ | _ <;> rfl
  · obtain ⟨hreads, hrlen, hclen, hothers⟩ := s.writeHostWord_wordBecomes v hw
    exact ⟨hreads, hrlen, hclen, hothers⟩
  · exact ⟨hostWord_rlen_writeHostWord r h, hostWord_clen_writeHostWord r h, writeHostWord_rlen_bank r h,
      writeHostWord_clen_bank r h⟩
  · exact ⟨writeHostWord_rlen_dropped v r h, writeHostWord_clen_dropped v r h⟩

end Sys2Proof.Machine.State
end

section
/-! The host's moves as steps: a `CTRL` write (20_memory R84), what each `STATE` allows (R82), and the byte view of the bus
(R72, R73). -/

namespace Sys2Proof.Machine

open Sys2Proof

theorem step_of_move {s : State} {m : HostMove} {rest : List HostTurn} (h : s.host = .move m :: rest) :
    step s = hostMove m { s with host := rest } := by rw [step, h]

namespace State

variable {s : State} {v : Word}

/-! ### The `CTRL` write -/

/-- `CLRF` takes effect (R84 (3)). -/
abbrev Clears (s : State) (v : Word) : Prop := v.getLsbD 1 = true ∧ (s.STATE = .halted ∨ s.STATE = .fault)

/-- `START` takes effect (R84 (4)): in `IDLE`, where `CLRF` leads to first, or in `HALTED`. -/
abbrev Starts (s : State) (v : Word) : Prop :=
  v.getLsbD 0 = true ∧ (s.Clears v ∨ s.STATE = .idle ∨ s.STATE = .halted)

theorem clearBy_eq (s : State) (v : Word) : s.clearBy v =
    { s with
      STATE := if s.Clears v then .idle else s.STATE
      FCAUSE := if s.Clears v then none else s.FCAUSE
      FPC := if s.Clears v then 0 else s.FPC
      FINFO := if s.Clears v then 0#32 else s.FINFO } := by
  simp only [clearBy, Clears, Bool.and_eq_true, Bool.or_eq_true, beq_iff_eq]
  split <;> rfl

theorem startBy_eq (s : State) (v : Word) : s.startBy v =
    { s with
      pc := if v.getLsbD 0 = true ∧ (s.STATE = .idle ∨ s.STATE = .halted) then 0 else s.pc
      STATE := if v.getLsbD 0 = true ∧ (s.STATE = .idle ∨ s.STATE = .halted) then .run else s.STATE } := by
  simp only [startBy, Bool.and_eq_true, Bool.or_eq_true, beq_iff_eq]
  split <;> rfl

theorem starts_iff (s : State) (v : Word) :
    s.Starts v ↔ v.getLsbD 0 = true ∧ ((s.clearBy v).STATE = .idle ∨ (s.clearBy v).STATE = .halted) := by
  refine and_congr_right fun _ => ?_
  rw [clearBy_eq]
  by_cases hc : s.Clears v
  · exact iff_of_true (.inl hc) (.inl (if_pos hc))
  · rw [if_neg hc]
    exact or_iff_right hc

/-- `CTRL` written without `SRST`, field by field. -/
theorem writeCtrl_of_not_reset (h : v.getLsbD 2 = false) : s.writeCtrl v =
    { s with
      IE := v.getLsbD 3
      pc := if s.Starts v then 0 else s.pc
      STATE := if s.Starts v then .run else if s.Clears v then .idle else s.STATE
      FCAUSE := if s.Clears v then none else s.FCAUSE
      FPC := if s.Clears v then 0 else s.FPC
      FINFO := if s.Clears v then 0#32 else s.FINFO } := by
  rw [writeCtrl_eq, h, startBy_eq]
  simp only [← starts_iff]
  rw [clearBy_eq]
  rfl

theorem writeCtrl_of_reset (h : v.getLsbD 2 = true) : s.writeCtrl v = s.restart (v.getLsbD 3) := if_pos h

theorem hostWrite_ctrl (s : State) (v : Word) : hostWrite 0x0000 v s = .next (s.writeCtrl v) := by
  rw [hostWrite, if_pos (by decide)]
  exact if_neg fun ⟨_, hne⟩ => hne rfl

/-- Settles O3: each field by whether `CLRF` and `START` take effect. -/
theorem controlWrite : Obligations.ControlWrite := by
  intro s rest v h clears starts
  have hstep := (step_of_move h).trans (hostWrite_ctrl _ v)
  refine ⟨fun hrst => ?_, fun hrst => ⟨_, hstep.trans (congrArg _ (writeCtrl_of_not_reset hrst)), rfl,
    fun hc => ⟨if_pos hc, if_pos hc, if_pos hc⟩, fun hc => ⟨if_neg hc, if_neg hc, if_neg hc⟩,
    fun hs => ⟨if_pos hs, if_pos hs⟩,
    fun hs => ⟨if_neg hs, fun hc => (if_neg hs).trans (if_pos hc), fun hc => (if_neg hs).trans (if_neg hc)⟩,
    rfl, rfl, rfl, rfl, rfl, rfl, rfl, rfl, rfl, rfl⟩⟩
  rw [hstep, writeCtrl_of_reset hrst]
  rfl

/-! ### Access by `STATE` -/

theorem locate_eq_ctrl_iff (c : Config.Params) (a : Nat) : locate c a = .ctrl ↔ a = 0x0000 := by
  refine ⟨fun h => ?_, fun h => by rw [h]; rfl⟩
  obtain hr | ha := locate_namedBy c a
  · rw [h] at hr
    cases hr
  · rw [h] at ha
    exact ha.symm

theorem readableWhileRunning_locate_iff (c : Config.Params) (a : Nat) :
    readableWhileRunning (locate c a) = true ↔ a ∈ [0x0001, 0x0002, 0x0007, 0x0008, 0x0009] := by
  constructor
  · have hname := locate_namedBy c a
    generalize locate c a = w at hname
    intro h
    obtain rfl | rfl := hname
    · cases h
    · cases w with
      | status | pcr | id | capr | rev => decide
      | _ => cases h
  · intro h
    simp only [List.mem_cons, List.not_mem_nil, or_false] at h
    obtain rfl | rfl | rfl | rfl | rfl := h <;> rfl

theorem hostRead_allowed {addr : Nat} (ha : addr < 2 ^ 30)
    (h : s.STATE ≠ .run ∨ readableWhileRunning (locate s.cfg addr) = true) :
    hostRead addr s = .next { s with hostGot := some (s.hostWord (locate s.cfg addr)) } := by
  rw [hostRead, if_pos ha]
  exact if_neg fun ⟨hrun, hno⟩ => h.elim (absurd hrun) (by simp [hno])

theorem hostRead_refused {addr : Nat} (ha : addr < 2 ^ 30) (hrun : s.STATE = .run)
    (h : ¬ readableWhileRunning (locate s.cfg addr) = true) :
    hostRead addr s = .refused (.hostMoveWhileRunning addr) := by
  rw [hostRead, if_pos ha]
  exact if_pos ⟨hrun, by simpa using h⟩

theorem hostWrite_allowed {addr : Nat} (ha : addr < 2 ^ 30) (h : s.STATE ≠ .run) :
    hostWrite addr v s = .next (s.writeHostWord v (locate s.cfg addr)) := by
  rw [hostWrite, if_pos ha]
  exact if_neg fun ⟨hrun, _⟩ => h hrun

theorem hostWrite_refused {addr : Nat} (ha : addr < 2 ^ 30) (hrun : s.STATE = .run)
    (h : locate s.cfg addr ≠ .ctrl) : hostWrite addr v s = .refused (.hostMoveWhileRunning addr) := by
  rw [hostWrite, if_pos ha]
  exact if_pos ⟨hrun, h⟩

theorem writeCtrl_host (s : State) (v : Word) : (s.writeCtrl v).host = s.host := by
  cases h : v.getLsbD 2 with
  | true => rw [writeCtrl_of_reset h]; rfl
  | false => rw [writeCtrl_of_not_reset h]

theorem writeHostWord_host (s : State) (v : Word) (w : HostWord) : (s.writeHostWord v w).host = s.host := by
  cases w with
  | ctrl => exact writeCtrl_host s v
  | rlen | clen => exact (apply_ite State.host _ _ _).trans (ite_self _)
  | _ => rfl

/-- Settles O9: the five readable words and `CTRL` are what their indices name. -/
theorem hostAccessByState : Obligations.HostAccessByState := by
  refine ⟨fun s rest addr hrun h ha => ?_, fun s rest addr v hrun h ha hne => ?_, fun s rest addr hrun h ha => ?_,
    fun s rest addr v hrun h ha => ?_⟩ <;> rw [step_of_move h]
  · have hread := readableWhileRunning_locate_iff s.cfg addr
    split
    next hr => exact hostRead_allowed ha (.inr (hread.mpr hr))
    next hr => exact hostRead_refused ha hrun (hread.not.mpr hr)
  · exact hostWrite_refused ha hrun ((locate_eq_ctrl_iff s.cfg addr).not.mpr hne)
  · exact hostRead_allowed ha (.inl hrun)
  · exact ⟨_, hostWrite_allowed ha hrun, writeHostWord_host _ v _⟩

/-! ### Bytes -/

theorem wordOfBytes_extract (v : Word) :
    wordOfBytes (v.extractLsb' 0 8) (v.extractLsb' 8 8) (v.extractLsb' 16 8) (v.extractLsb' 24 8) = v := by
  have join (lo len : Nat) (v : Word) : v.extractLsb' (lo + 8) len ++ v.extractLsb' lo 8 = v.extractLsb' lo (len + 8) :=
    BitVec.extractLsb'_append_extractLsb'_eq_extractLsb' rfl
  calc wordOfBytes (v.extractLsb' 0 8) (v.extractLsb' 8 8) (v.extractLsb' 16 8) (v.extractLsb' 24 8)
      = v.extractLsb' 16 16 ++ v.extractLsb' 8 8 ++ v.extractLsb' 0 8 := by rw [wordOfBytes, join 16 8]
    _ = v.extractLsb' 8 24 ++ v.extractLsb' 0 8 := by rw [join 8 16]
    _ = v.extractLsb' 0 32 := join 0 24 v
    _ = v := BitVec.extractLsb'_eq_self

theorem byteRead_aligned (s : State) {a : Nat} (h : a % 4 = 0) :
    hostMove (.byteRead a 4) s = hostMove (.read (a / 4)) s := if_pos ⟨rfl, h⟩

theorem byteWrite_aligned (s : State) {a : Nat} (b0 b1 b2 b3 : BitVec 8) (h : a % 4 = 0) :
    hostMove (.byteWrite a [b0, b1, b2, b3]) s = hostMove (.write (a / 4) (wordOfBytes b0 b1 b2 b3)) s := if_pos h

/-- Settles O12: byte address `4 * w` is aligned and in word `w`. -/
theorem byteAccess : Obligations.ByteAccess := by
  have haligned (w : Nat) : 4 * w % 4 = 0 := Nat.mul_mod_right 4 w
  have hindex (w : Nat) : 4 * w / 4 = w := Nat.mul_div_cancel_left w (by decide)
  refine ⟨fun s w => ?_, fun s w v => ?_, fun s a size h => if_neg h, fun s a bytes h => ?_⟩
  · rw [byteRead_aligned s (haligned w), hindex]
  · rw [byteWrite_aligned s _ _ _ _ (haligned w), hindex, wordOfBytes_extract]
  · match bytes, h with
    | [_, _, _, _], h => exact if_neg fun ha => h ⟨rfl, ha⟩
    | [], _ | [_], _ | [_, _], _ | [_, _, _], _ | _ :: _ :: _ :: _ :: _ :: _, _ => rfl

end State

end Sys2Proof.Machine
end

section
/-! A word is its opcode and six 4-bit fields (30_encoding R101), and what an encoder's word, a test for zero below a bit
and a bitwise `and` are in these terms. -/

namespace Sys2Proof

theorem opcode_lt (w : Word) : opcode w < 2 ^ 8 := Nat.div_lt_of_lt_mul w.isLt

theorem field_lt (w : Word) (lo : Nat) : field w lo < 16 := Nat.mod_lt _ (by decide)

theorem word_eq_iff {v w : Word} : v = w ↔ opcode v = opcode w ∧ field v 20 = field w 20 ∧ field v 16 = field w 16 ∧
    field v 12 = field w 12 ∧ field v 8 = field w 8 ∧ field v 4 = field w 4 ∧ field v 0 = field w 0 := by
  refine ⟨fun h => by simp [h], fun h => BitVec.eq_of_toNat_eq ?_⟩
  simp only [opcode, field] at h
  omega

theorem wordR_eq_iff {op a b c d e f : Nat} {w : Word} (hop : op < 256) (ha : a < 16) (hb : b < 16) (hc : c < 16)
    (hd : d < 16) (he : e < 16) (hf : f < 16) : wordR op a b c d e f = w ↔ opcode w = op ∧ field w 20 = a ∧
      field w 16 = b ∧ field w 12 = c ∧ field w 8 = d ∧ field w 4 = e ∧ field w 0 = f := by
  rw [word_eq_iff, opcode_wordR hop ha hb hc hd he hf, field_a_wordR hop ha hb hc hd he hf,
    field_b_wordR hop ha hb hc hd he hf, field_c_wordR hop ha hb hc hd he hf, field_d_wordR hop ha hb hc hd he hf,
    field_e_wordR hop ha hb hc hd he hf, field_f_wordR hop ha hb hc hd he hf]
  simp only [eq_comm]

theorem wordI_eq_iff {op a : Nat} {imm : BitVec 16} {w : Word} (hop : op < 256) (ha : a < 16) :
    wordI op a imm = w ↔ opcode w = op ∧ field w 20 = a ∧ field w 16 = 0 ∧ imm16 w = imm := by
  constructor
  · rintro rfl
    exact ⟨opcode_wordI imm hop ha, field_a_wordI imm hop ha, field_b_wordI imm hop ha, imm16_wordI imm hop ha⟩
  · rintro ⟨rfl, rfl, hb, rfl⟩
    apply BitVec.eq_of_toNat_eq
    rw [wordI_toNat _ hop ha, imm16, BitVec.toNat_setWidth]
    simp only [opcode, field] at hb ⊢
    omega

theorem below_add_four {w : Word} {n : Nat} : below w (n + 4) = 0 ↔ field w n = 0 ∧ below w n = 0 := by
  rw [below, Nat.pow_add, Nat.mod_mul, field, below, Nat.add_eq_zero_iff, Nat.mul_eq_zero, and_comm]
  exact and_congr_left fun _ => or_iff_right (Nat.two_pow_pos n).ne'

theorem below_zero (w : Word) : below w 0 = 0 := Nat.mod_one _

/-- A command's unused fields, for each place where they begin. -/
theorem below_eq_zero (w : Word) :
    (below w 4 = 0 ↔ field w 0 = 0) ∧
    (below w 8 = 0 ↔ field w 4 = 0 ∧ field w 0 = 0) ∧
    (below w 12 = 0 ↔ field w 8 = 0 ∧ field w 4 = 0 ∧ field w 0 = 0) ∧
    (below w 16 = 0 ↔ field w 12 = 0 ∧ field w 8 = 0 ∧ field w 4 = 0 ∧ field w 0 = 0) ∧
    (below w 20 = 0 ↔ field w 16 = 0 ∧ field w 12 = 0 ∧ field w 8 = 0 ∧ field w 4 = 0 ∧ field w 0 = 0) ∧
    (below w 24 = 0 ↔
      field w 20 = 0 ∧ field w 16 = 0 ∧ field w 12 = 0 ∧ field w 8 = 0 ∧ field w 4 = 0 ∧ field w 0 = 0) := by
  simp [below_add_four, below_zero]

theorem opcode_and (v w : Word) : opcode (v &&& w) = opcode v &&& opcode w := by
  rw [opcode, BitVec.toNat_and, Nat.and_div_two_pow, opcode, opcode]

theorem field_and (v w : Word) (lo : Nat) : field (v &&& w) lo = field v lo &&& field w lo := by
  rw [field, BitVec.toNat_and, Nat.and_div_two_pow]
  exact Nat.and_mod_two_pow (n := 4)

theorem opcode_ofNat (n : Nat) : opcode (BitVec.ofNat 32 n) = n % 2 ^ 32 / 2 ^ 24 := rfl

theorem field_ofNat (n lo : Nat) : field (BitVec.ofNat 32 n) lo = n % 2 ^ 32 / 2 ^ lo % 16 := rfl

end Sys2Proof
end

section
/-! What an arm of the decoder accepts: each operand it reads is a condition on its field (30_encoding R103), first with the
command it answers, then for whether it answers at all. -/

namespace Sys2Proof

section
variable {p : Prop} [Decidable p] {w : Word} {n lo : Nat} {α : Type}

@[simp] theorem must_bind_eq_some {k : Unit → Option α} {a : α} : (must p).bind k = some a ↔ p ∧ k () = some a := by
  by_cases h : p <;> simp [must, h]

@[simp] theorem asP_bind_eq_some {k : Fin 16 → Option α} {a : α} :
    (asP n).bind k = some a ↔ ∃ i : Fin 16, n = i ∧ k i = some a := by
  simp [Option.bind_eq_some_iff, asP_eq_some]

@[simp] theorem asZ_bind_eq_some {k : Fin 8 → Option α} {a : α} :
    (asZ n).bind k = some a ↔ ∃ i : Fin 8, n = i ∧ k i = some a := by
  simp [Option.bind_eq_some_iff, asZ_eq_some]

@[simp] theorem asBank_bind_eq_some {k : Fin 4 → Option α} {a : α} :
    (asBank n).bind k = some a ↔ ∃ i : Fin 4, n = i ∧ k i = some a := by
  simp [Option.bind_eq_some_iff, asBank_eq_some]

@[simp] theorem asDir_bind_eq_some {k : Dir → Option α} {a : α} :
    (asDir n).bind k = some a ↔ ∃ d : Dir, n = d.code ∧ k d = some a := by
  simp [Option.bind_eq_some_iff, asDir_eq_some]

@[simp] theorem isSome_must_bind {k : Unit → Option α} :
    ((must p).bind k).isSome = true ↔ p ∧ (k ()).isSome = true := by
  simp [Option.isSome_iff_exists]

@[simp] theorem isSome_asP_field_bind {k : Fin 16 → Option α} :
    ((asP (field w lo)).bind k).isSome = true ↔ (k ⟨field w lo, field_lt w lo⟩).isSome = true := by
  simp [asP, field_lt]

@[simp] theorem isSome_asZ_bind {k : Fin 8 → Option α} :
    ((asZ n).bind k).isSome = true ↔ ∃ h : n < 8, (k ⟨n, h⟩).isSome = true := by
  by_cases h : n < 8 <;> simp [asZ, h]

@[simp] theorem isSome_asBank_bind {k : Fin 4 → Option α} :
    ((asBank n).bind k).isSome = true ↔ ∃ h : n < 4, (k ⟨n, h⟩).isSome = true := by
  by_cases h : n < 4 <;> simp [asBank, h]

@[simp] theorem isSome_asDir_bind {k : Dir → Option α} :
    ((asDir n).bind k).isSome = true ↔ n = 0 ∧ (k .fwd).isSome = true ∨ n = 1 ∧ (k .inv).isSome = true := by
  by_cases h0 : n = 0
  · simp [asDir, h0]
  · by_cases h1 : n = 1 <;> simp [asDir, h0, h1]

end

end Sys2Proof
end

section
/-! Decode and encode agree (30_encoding R109). In both directions a word is `encode i` exactly when its opcode and its
fields are those of `i`, which is what the arm of the decoder with that opcode reads. -/

namespace Sys2Proof

@[simp] theorem z_val_lt (i : Fin 8) : i.val < 16 := i.isLt.trans (by decide)

@[simp] theorem bank_val_lt (i : Fin 4) : i.val < 16 := i.isLt.trans (by decide)

theorem wellFormed_and_encode_of_decode {w : Word} {i : Instr} :
    decode w = some i → i.wellFormed = true ∧ encode i = w := by
  unfold decode
  -- each arm: what it accepted, field by field
  split <;> simp only [Option.bind_eq_bind, must_bind_eq_some, asP_bind_eq_some, asZ_bind_eq_some,
    asBank_bind_eq_some, asDir_bind_eq_some, below_eq_zero, Option.pure_def, Option.some.injEq, forall_exists_index,
    and_imp, reduceCtorEq, false_implies]
  -- and these are the fields of the command's word
  all_goals
    intros
    subst i
    simp_all only [Instr.wellFormed, encode, wordR_eq_iff, wordI_eq_iff, Dir.code_lt, z_val_lt, bank_val_lt,
      Fin.is_lt, Nat.reduceLT, decide_eq_true_eq, and_self]

theorem decode_encode {i : Instr} (h : i.wellFormed = true) : decode (encode i) = some i := by
  generalize hw : encode i = w
  -- each command: the opcode and the fields of its word
  cases i <;> simp only [encode, wordR_eq_iff, wordI_eq_iff, Dir.code_lt, z_val_lt, bank_val_lt, Fin.is_lt,
    Nat.reduceLT] at hw
  -- with which the arm of that opcode accepts
  all_goals simp_all [decode, Instr.wellFormed, below_eq_zero]

/-- Settles O14: the decoder's arm reads back the fields of the command's word. -/
theorem decodeEncode : Obligations.DecodeEncode := fun _ => decode_encode

/-- Settles O15: an arm accepts a word only with every field the one of its command's word. -/
theorem decodeSound : Obligations.DecodeSound := fun _ _ => wellFormed_and_encode_of_decode

/-- Settles O13, by evaluation. -/
theorem workedEncodings : Obligations.WorkedEncodings := by
  unfold Obligations.WorkedEncodings
  decide

end Sys2Proof
end

section
/-! The decoder and the opcode table (30_encoding R106, R107). A row matches a word when the opcodes are equal and each
field is within the bound of its operand's kind, which is when the row's arm of the decoder accepts; and opcodes and
mnemonics name the rows. -/

namespace Sys2Proof

theorem OpRow.matches_iff {row : OpRow} {w : Word} :
    row.matches w = true ↔ w &&& row.mask = row.pattern ∧ ∀ c ∈ row.block, field w c.1 ≤ c.2 := by
  rw [OpRow.matches, Bool.and_eq_true, beq_iff_eq]
  cases row.block <;> simp

/-- The four masks of a field and what they ask of it: unused, `dir`, a bank, `z` (R103). -/
theorem field_and_eq_zero (w : Word) (lo : Nat) :
    (field w lo &&& 15 = 0 ↔ field w lo = 0) ∧ (field w lo &&& 14 = 0 ↔ field w lo = 0 ∨ field w lo = 1) ∧
    (field w lo &&& 12 = 0 ↔ field w lo < 4) ∧ (field w lo &&& 8 = 0 ↔ field w lo < 8) := by
  have h : ∀ n < 16, (n &&& 15 = 0 ↔ n = 0) ∧ (n &&& 14 = 0 ↔ n = 0 ∨ n = 1) ∧ (n &&& 12 = 0 ↔ n < 4) ∧
      (n &&& 8 = 0 ↔ n < 8) := by decide
  exact h _ (field_lt w lo)

theorem isSome_decode_iff_matches {w : Word} {row : OpRow} (hrow : row ∈ opcodeTable)
    (h : opcode w = opcode row.pattern) : (decode w).isSome = true ↔ row.matches w = true := by
  rw [OpRow.matches_iff, word_eq_iff, opcode_and]
  simp only [field_and]
  fin_cases hrow
  all_goals
    simp only [opcode_ofNat, field_ofNat, Nat.reduceMod, Nat.reduceDiv, Nat.reducePow] at h ⊢
    simp only [decode, h, Option.bind_eq_bind, Option.pure_def, isSome_must_bind, isSome_asP_field_bind,
      isSome_asZ_bind, isSome_asBank_bind, isSome_asDir_bind, Option.isSome_some, below_eq_zero, field_and_eq_zero,
      Nat.reduceAnd, Nat.and_zero, exists_prop, Option.mem_def, Option.some.injEq, forall_eq', reduceCtorEq,
      false_implies, implies_true, true_and, and_true]
  all_goals omega

theorem row_eq_of_opcode {row row' : OpRow} (hrow : row ∈ opcodeTable) (hrow' : row' ∈ opcodeTable)
    (h : opcode row.pattern = opcode row'.pattern) : row = row' :=
  List.inj_on_of_nodup_map (f := fun r => opcode r.pattern) (by decide) hrow hrow' h

theorem row_eq_of_mnemonic {row row' : OpRow} (hrow : row ∈ opcodeTable) (hrow' : row' ∈ opcodeTable)
    (h : row.mnemonic = row'.mnemonic) : row = row' :=
  List.inj_on_of_nodup_map (f := OpRow.mnemonic) (by decide) hrow hrow' h

theorem opcode_of_matches {row : OpRow} {w : Word} (hrow : row ∈ opcodeTable) (h : row.matches w = true) :
    opcode w = opcode row.pattern := by
  have hmask : ∀ r ∈ opcodeTable, opcode r.mask = 2 ^ 8 - 1 := by decide
  obtain ⟨hpattern, -⟩ := OpRow.matches_iff.mp h
  rw [← hpattern, opcode_and, hmask row hrow, Nat.and_two_pow_sub_one_of_lt_two_pow (opcode_lt w)]

theorem row_eq_of_matches {row row' : OpRow} {w : Word} (hrow : row ∈ opcodeTable) (hrow' : row' ∈ opcodeTable)
    (h : row.matches w = true) (h' : row'.matches w = true) : row = row' :=
  row_eq_of_opcode hrow hrow' ((opcode_of_matches hrow h).symm.trans (opcode_of_matches hrow' h'))

/-- Every command has its row. -/
theorem Laws.Opcode.statement (i : Instr) : Statement i := by
  cases i
  exacts [nop, halt, setlo _ _, sethi _ _, movp _ _, ccopy _ _, rcopy _ _, czero _ _, rzero _ _, rld _ _ _, rst _ _ _,
    zmk _ _ _, zre _ _, zim _ _, zld _ _ _, zst _ _ _, zadd _ _ _, zsub _ _ _, zmul _ _ _, zdiv _ _ _, zdivs _ _ _,
    zmag _ _, zphase _ _, znorm _ _, zisz _ _, zconj _ _, bitrev _, bfly _ _, fft _, ifft _, twid _ _ _ _, lift _ _ _,
    rfft _ _ _, rfftg _ _ _ _ _, realp _ _, bpedge _ _ _ _ _, bpmask _ _, bpf _ _ _ _, cmulv _ _, conv _ _ _ _ _ _,
    conjv _, whiten _, xcinit _ _ _, xcorr _ _ _, zstuff _ _ _, decim _ _ _ _, resamp _ _ _ _ _, hrot _, hilb _ _ _,
    words _, wget _ _ _, wfill]

theorem exists_row_of_decode {w : Word} {i : Instr} (h : decode w = some i) :
    ∃ row ∈ opcodeTable, row.mnemonic = i.mnemonic ∧ row.matches w = true := by
  obtain ⟨row, hrow, hname, hop⟩ := Laws.Opcode.statement i
  obtain ⟨-, rfl⟩ := wellFormed_and_encode_of_decode h
  exact ⟨row, hrow, hname, (isSome_decode_iff_matches hrow hop).mp (Option.isSome_of_mem h)⟩

theorem matches_iff_mnemonic {w : Word} {i : Instr} {row : OpRow} (h : decode w = some i) (hrow : row ∈ opcodeTable) :
    row.matches w = true ↔ row.mnemonic = i.mnemonic := by
  obtain ⟨own, hown, hname, hmatch⟩ := exists_row_of_decode h
  constructor
  · intro hm
    rw [row_eq_of_matches hrow hown hm hmatch, hname]
  · intro hm
    rwa [row_eq_of_mnemonic hrow hown (hm.trans hname.symm)]

theorem decode_eq_none_iff {w : Word} : decode w = none ↔ ∀ row ∈ opcodeTable, row.matches w = false := by
  constructor
  · intro h row hrow
    by_contra hm
    rw [Bool.not_eq_false] at hm
    have := (isSome_decode_iff_matches hrow (opcode_of_matches hrow hm)).mpr hm
    simp [h] at this
  · intro h
    rw [Option.eq_none_iff_forall_ne_some]
    intro i hi
    obtain ⟨row, hrow, -, hm⟩ := exists_row_of_decode hi
    simp [h row hrow] at hm

/-- Settles O16: a word is accepted when the row of its opcode matches it, and no two rows share an opcode. -/
theorem decoderIsTheTable : Obligations.DecoderIsTheTable :=
  ⟨rfl, fun _ => decode_eq_none_iff, fun _ _ h _ => matches_iff_mnemonic h, fun _ _ hrow _ => row_eq_of_matches hrow⟩

end Sys2Proof
end

section
/-! How a checked command ends, check by check (60_exceptions R371), and what a bank holds after a command that sets its
length (10_state R41, R44). -/

namespace Sys2Proof.Machine

open Sys2Proof

/-- A command with a check before the rest: the rest where it holds, the fault entry where it fails. -/
theorem finish_require_bind (s : State) (ok : Bool) (c : Cause) (v : Nat) (k : Unit → Except Raise State) :
    finish s (require ok c v >>= k) = if ok then finish s (k ()) else .next (s.takeFault c v) := by
  cases ok <;> rfl

section
variable {s : State} {pi : Fin 16} {len : Nat}

theorem elementIndex_of_lt (h : s.idx pi < len) : elementIndex s pi len = .ok (s.idx pi) :=
  elementIndex_eq_ok.mpr ⟨rfl, h⟩

theorem elementIndex_of_le (h : len ≤ s.idx pi) : elementIndex s pi len = .error (.bounds, s.idx pi) := by
  rw [elementIndex, require_bind, if_neg (by simpa using h)]

end

theorem Bank.holdsReal_fresh (m : Mem) (r : Fin 4) (xs : List F32) :
    Bank.holdsReal { len := xs.length, mem := m.fresh xs } r xs :=
  ⟨rfl, fun i hi => by rw [Mem.read_fresh _ _ _ hi, List.getD_eq_getElem _ _ hi]⟩

/-- A complex bank holds the samples whose words it holds. -/
theorem Bank.holdsCplx_of_words {B : Bank} {b : Fin 4} {xs : List Cplx} (hlen : B.len = xs.length)
    (h : ∀ i (hi : i < (cplxWords xs).length), B.mem.read (.cplx b) i = (cplxWords xs)[i]) : B.holdsCplx b xs := by
  have samples := cplx_samples (.cplx b) B.mem xs h
  refine ⟨hlen, fun i hi => ?_⟩
  have hz : at_ xs i = ⟨B.mem.read (.cplx b) (2 * i), B.mem.read (.cplx b) (2 * i + 1)⟩ := by
    conv_lhs => rw [← samples]
    simp [at_, hi]
  simp [hz]

theorem Bank.holdsCplx_fresh (m : Mem) (b : Fin 4) (xs : List Cplx) :
    Bank.holdsCplx { len := xs.length, mem := m.fresh (cplxWords xs) } b xs :=
  Bank.holdsCplx_of_words rfl fun _ hi => Mem.read_fresh _ _ _ hi

/-- A command that sets a real bank changes that bank and `pc`, and the bank then holds the samples. -/
theorem done_setRealBuf (s : State) (r : Fin 4) (xs : List F32) :
    ∃ B, done (s.setRealBuf r xs) = .next { s with RB := s.RB.set r B, pc := s.pc + 1 } ∧ B.holdsReal r xs :=
  ⟨_, rfl, Bank.holdsReal_fresh _ r xs⟩

/-- A command that sets a complex bank changes that bank and `pc`, and the bank then holds the samples. -/
theorem done_setCplxBuf (s : State) (b : Fin 4) (xs : List Cplx) :
    ∃ B, done (s.setCplxBuf b xs) = .next { s with CB := s.CB.set b B, pc := s.pc + 1 } ∧ B.holdsCplx b xs :=
  ⟨_, rfl, Bank.holdsCplx_fresh _ b xs⟩

/-- A command that stores one word of a real bank changes that bank and `pc`, and of the bank that word alone. -/
theorem done_writeReal (s : State) (r : Fin 4) (i : Nat) (v : F32) :
    ∃ B : Bank, done (s.writeReal r i v) = .next { s with RB := s.RB.set r B, pc := s.pc + 1 } ∧
      B.len = s.rlen r ∧ B.mem.read (.real r) i = v ∧ ∀ k, k ≠ i → B.mem.read (.real r) k = s.readReal r k :=
  ⟨_, rfl, rfl, Mem.read_write_same _ _ i v, fun _ hk => Mem.read_write_ne _ _ v hk⟩

end Sys2Proof.Machine
end

section
/-! The commands of 40_sequencer_and_move: how each ends (R130), the scalar registers and `HALT` (R131 to R135), the
moves of whole banks (R136 to R139) and of one real sample (R140, R141). -/

namespace Sys2Proof.Machine

open Sys2Proof

/-! ### The step and the ends of a command -/

section
variable {s : State} {i : Instr}

theorem engineStep_of_decode (hrun : s.STATE = .run) (hpc : s.pc < s.cfg.cmdCap)
    (hdec : decode (s.readCM s.pc) = some i) : engineStep s = exec i s := by
  have hf : fetch s = .ok i := by rw [fetch, if_pos hpc, hdec]
  rw [engineStep, hrun, hf]

theorem engineStep_of_not_run (h : s.STATE ≠ .run) : engineStep s = .next s := by
  unfold engineStep
  cases hs : s.STATE with
  | run => exact absurd hs h
  | idle | halted | fault => rfl

theorem step_of_engine_turn {rest : List HostTurn} (h : s.host = .engine :: rest) :
    step s = engineStep { s with host := rest } := by rw [step, h]

end

/-- Settles O49: `HALT` has its own end; what any other command answers is a fault entry or its writes, which leave `pc`
and `STATE` alone. -/
theorem commandEnds : Obligations.CommandEnds := by
  intro i s hrun
  obtain rfl | hi := eq_or_ne i .halt
  · exact ⟨_, rfl, .inr (.inl ⟨rfl, rfl⟩)⟩
  · obtain ⟨t, ht⟩ := exec_next i s
    refine ⟨t, ht, ?_⟩
    cases State.exec_ends ht with
    | halted h => exact absurd h hi
    | faulted c v => exact .inl ⟨rfl, c, v, rfl⟩
    | completed hu =>
      obtain ⟨_, _, _, _, _, _, rfl⟩ := hu.frame
      exact .inr (.inr ⟨hi, hrun, rfl⟩)

/-- Settles O5, by the turn that `step` takes and by `STATE`. -/
theorem stepRunsDecodedCommand : Obligations.StepRunsDecodedCommand := by
  refine ⟨fun s i hhost hrun hpc hdec => ?_, fun s rest i hhost hrun hpc hdec => ?_, fun s hhost hrun => ?_⟩
  · rw [step_of_no_host hhost, engineStep_of_decode hrun hpc hdec]
  · rw [step_of_engine_turn hhost]
    exact engineStep_of_decode hrun hpc hdec
  · rw [step_of_no_host hhost, engineStep_of_not_run hrun]

/-! ### Sequencer and scalar registers -/

theorem lowHalf_eq_extractLsb' (w : Word) : lowHalf w = w.extractLsb' 0 16 := BitVec.setWidth_eq_extractLsb' (by decide)

theorem zext_eq_append (imm : BitVec 16) : zext imm = 0#16 ++ imm := BitVec.setWidth_eq_append (by decide)

theorem toNat_opcode_bits (w : Word) : (w.extractLsb' 24 8).toNat = opcode w := by
  rw [BitVec.extractLsb'_toNat, Nat.shiftRight_eq_div_pow]
  exact Nat.mod_eq_of_lt (opcode_lt w)

/-- The opcode of `NOP` with any other bit set is no command (R131). -/
theorem decode_nop_opcode {w : Word} (hop : w.extractLsb' 24 8 = 0x01#8) (hw : w ≠ 0x01000000#32) :
    decode w = none := by
  have hop : opcode w = 1 := by
    rw [← toNat_opcode_bits, hop]
    rfl
  obtain ⟨-, -, -, -, -, fields⟩ := below_eq_zero w
  have hlow : below w 24 ≠ 0 := fun h => hw (word_eq_iff.mpr ⟨hop, fields.mp h⟩)
  simp [decode, hop, must, hlow]

/-- A `START` that finds the engine halted begins at the first command (R132, 20_memory R84 (4)). -/
theorem writeCtrl_start_of_halted {s : State} {v : Word} (h : s.STATE = .halted) (hsrst : v.getLsbD 2 = false)
    (hstart : v.getLsbD 0 = true) : (s.writeCtrl v).pc = 0 ∧ (s.writeCtrl v).STATE = .run := by
  have hs : s.Starts v := ⟨hstart, .inr (.inr h)⟩
  rw [State.writeCtrl_of_not_reset hsrst]
  exact ⟨if_pos hs, if_pos hs⟩

/-- Settles O17: the next states are those of the rules by definition, up to how a half word is put into a register. -/
theorem sequencerAndScalars : Obligations.SequencerAndScalars := by
  refine ⟨⟨rfl, rfl⟩, fun _ => decode_nop_opcode, fun _ _ => writeCtrl_start_of_halted, fun _ => ⟨rfl, rfl⟩,
    fun pd ps imm s => ⟨rfl, rfl, rfl, ?_, ?_, rfl⟩⟩
  · rw [← zext_eq_append]
    rfl
  · rw [← lowHalf_eq_extractLsb']
    rfl

/-! ### Whole banks -/

/-- Settles O18: a copy onto the same bank is skipped, any other sets the bank to the samples of the source. -/
theorem bankCopies : Obligations.BankCopies := by
  refine ⟨fun _ _ => ⟨rfl, rfl⟩, fun c s => ⟨?_, ?_⟩, fun cd cs s hne => ⟨?_, ?_⟩⟩
  · exact congrArg done (if_pos rfl)
  · exact congrArg done (if_pos rfl)
  · rw [exec, execCcopy, if_neg hne]
    exact done_setCplxBuf s cd (s.cplxBuf cs)
  · rw [exec, execRcopy, if_neg hne]
    exact done_setRealBuf s cd (s.realBuf cs)

theorem execCzero_eq (cd : Fin 4) (pn : Fin 16) (s : State) : execCzero cd pn s =
    if s.idx pn ≤ s.cap then done (s.setCplxBuf cd (List.replicate (s.idx pn) Cplx.zero))
    else .next (s.takeFault .bounds (s.idx pn)) := by
  rw [execCzero, finish_require_bind]
  simp only [decide_eq_true_eq]
  rfl

theorem execRzero_eq (rd : Fin 4) (pn : Fin 16) (s : State) : execRzero rd pn s =
    if s.idx pn ≤ s.cap then done (s.setRealBuf rd (List.replicate (s.idx pn) F32.zero))
    else .next (s.takeFault .bounds (s.idx pn)) := by
  rw [execRzero, finish_require_bind]
  simp only [decide_eq_true_eq]
  rfl

/-- Settles O19, by the one check that both commands make. -/
theorem bankZeroes : Obligations.BankZeroes := by
  intro d pn s
  refine ⟨rfl, rfl, fun h => ⟨?_, ?_⟩, fun h => ⟨?_, ?_⟩⟩
  · rw [exec, execCzero_eq, if_pos h]
    exact done_setCplxBuf s d _
  · rw [exec, execRzero_eq, if_pos h]
    exact done_setRealBuf s d _
  · rw [exec, execCzero_eq, if_neg (not_le.mpr h)]
  · rw [exec, execRzero_eq, if_neg (not_le.mpr h)]

/-! ### One real sample -/

/-- Settles O20: below the length the load and the store reach sample `P[pi]`, from the length on its check raises. -/
theorem realElements : Obligations.RealElements := by
  refine ⟨fun pd pi rs s => ⟨rfl, fun h => ?_, fun h => ?_⟩, fun rd pi ps s => ⟨rfl, fun h => ?_, fun h => ?_⟩⟩
  · rw [exec, execRld, elementIndex_of_lt h]
    rfl
  · rw [exec, execRld, elementIndex_of_le h]
    rfl
  · rw [exec, execRst, elementIndex_of_lt h]
    exact done_writeReal s rd (s.idx pi) (s.getP ps)
  · rw [exec, execRst, elementIndex_of_le h]
    rfl

end Sys2Proof.Machine
end

section
/-! The rounded sum and product do not depend on the order of their operands, except for the payload where they are NaNs
(00_scope R12); the complex product inherits this (41_complex_alu R163). -/

namespace Sys2Proof

namespace F32

variable {x y : F32}

/-- Where an operation passes NaNs on and its result `z` is no NaN, neither operand was one. -/
theorem isNaN_operands_of_result {z : F32} (hz : isNaN x = true ∨ isNaN y = true → isNaN z = true)
    (h : isNaN z = false) : isNaN x = false ∧ isNaN y = false := by
  simpa [h] using hz

theorem alignedSum_comm (x y : F32) : alignedSum x y = alignedSum y x := by
  rw [alignedSum, alignedSum, min_comm, add_comm]

theorem addFinite_comm (x y : F32) : addFinite x y = addFinite y x := by
  rw [addFinite_eq, addFinite_eq, alignedSum_comm, min_comm, Bool.and_comm]

/-- Two infinities of opposite signs have a NaN as their sum, and two of one sign are equal. -/
theorem fadd_comm (h : isNaN (fadd x y) = false) : fadd x y = fadd y x := by
  obtain ⟨hx, hy⟩ := isNaN_operands_of_result isNaN_fadd h
  cases hxi : isInf x <;> cases hyi : isInf y
  · simp [fadd, addNumber, hx, hy, hxi, hyi, addFinite_comm]
  · simp [fadd, addNumber, hx, hy, hxi, hyi]
  · simp [fadd, addNumber, hx, hy, hxi, hyi]
  · have hs : sign x = sign y := by
      by_contra hs
      simp [fadd, addNumber, hx, hy, hxi, hyi, hs] at h
    rw [isInf_eq, decide_eq_true_eq] at hxi hyi
    rw [eq_of_sign_of_magBits hs (hxi.trans hyi.symm)]

/-- An infinity times a zero is a NaN, times any other number an infinity. -/
theorem fmul_comm_of_isInf (hx : isInf x = true) (hy : isNaN y = false) :
    (isNaN (fmul x y) = true ∧ isNaN (fmul y x) = true) ∨ fmul x y = fmul y x := by
  cases h0 : feq0 y with
  | true => exact .inl (isNaN_fmul_isInf_zero hx h0)
  | false =>
    obtain ⟨hxy, hyx⟩ := fmul_isInf_nonzero hx hy h0
    exact .inr (hxy.trans hyx.symm)

/-- Sign, significand and exponent of a product are symmetric in its operands. -/
theorem fmul_comm (h : isNaN (fmul x y) = false) : fmul x y = fmul y x := by
  obtain ⟨hx, hy⟩ := isNaN_operands_of_result isNaN_fmul h
  cases hxi : isInf x with
  | true => exact (fmul_comm_of_isInf hxi hy).resolve_left (by simp [h])
  | false =>
    cases hyi : isInf y with
    | true => exact ((fmul_comm_of_isInf hyi hx).resolve_left (by simp [h])).symm
    | false => simp [fmul, hx, hy, hxi, hyi, Bool.xor_comm, mul_comm, add_comm]

end F32

/-- Settles O27: where the two components are no NaNs the four products are none, so they commute, and so does the
sum of the two crossed ones. -/
theorem productCommutes : Obligations.ProductCommutes := by
  intro a b hre him
  obtain ⟨hrr, hii⟩ := F32.isNaN_operands_of_result F32.isNaN_fsub hre
  obtain ⟨hri, hir⟩ := F32.isNaN_operands_of_result F32.isNaN_fadd him
  have him' : (cmul a b).im = (cmul b a).im :=
    calc (cmul a b).im
      _ = F32.fadd (F32.fmul a.im b.re) (F32.fmul a.re b.im) := F32.fadd_comm him
      _ = (cmul b a).im := by rw [F32.fmul_comm hri, F32.fmul_comm hir]; rfl
  have hre' : (cmul a b).re = (cmul b a).re := congrArg₂ F32.fsub (F32.fmul_comm hrr) (F32.fmul_comm hii)
  exact congrArg₂ Cplx.mk hre' him'

end Sys2Proof
end

section
/-! The arctangent (41_complex_alu R167): a NaN for a NaN operand, free at the zero sample, and of every other sample one
of the values of `fatan2_of_number`, none of which is larger in size than `pi`. -/

namespace Sys2Proof.F32

variable {x y : F32}

theorem isNaN_fatan2 (h : isNaN y = true ∨ isNaN x = true) : isNaN (fatan2 y x) = true := by
  rcases h with h | h <;> simp [fatan2, h]

theorem fatan2_of_number (hy : isNaN y = false) (hx : isNaN x = false) (h0 : (feq0 y && feq0 x) = false) :
    fatan2 y x = if y = zero ∧ flt zero x = true then zero
      else if x = zero then (if flt zero y then halfPi else fneg halfPi)
      else if magBits (Config.rawAtan2 y x) ≤ piMag then Config.rawAtan2 y x else zero := by
  simp [fatan2, hy, hx, h0]

theorem magBits_fatan2_le (hy : isNaN y = false) (hx : isNaN x = false) (h0 : (feq0 y && feq0 x) = false) :
    magBits (fatan2 y x) ≤ piMag := by
  rw [fatan2_of_number hy hx h0]
  split_ifs with _ _ _ hraw
  · decide
  · decide
  · decide
  · exact hraw
  · decide

/-- A pattern is in `[-pi, +pi]` when its magnitude is at most that of `pi`. -/
theorem fle_pi_of_magBits_le (h : magBits x ≤ piMag) : fle 0xC0490FDB#32 x = true ∧ fle x 0x40490FDB#32 = true := by
  have hx : isNaN x = false := by
    rw [isNaN_eq, decide_eq_false_iff_not, not_lt]
    exact h.trans (by decide)
  have hlo : rank 0xC0490FDB#32 = -piMag := by decide
  have hhi : rank 0x40490FDB#32 = piMag := by decide
  rw [fle_iff (by decide) hx, fle_iff hx (by decide), hlo, hhi, rank]
  split <;> omega

theorem numbers_of_flt (h : flt x y = true) : isNaN x = false ∧ isNaN y = false ∧ rank x < rank y := by
  simpa [flt, and_assoc] using h

theorem flt_asymm (h : flt x y = true) : flt y x = false := by
  obtain ⟨-, -, hxy⟩ := numbers_of_flt h
  rw [← Bool.not_eq_true]
  intro h'
  obtain ⟨-, -, hyx⟩ := numbers_of_flt h'
  exact lt_asymm hxy hyx

theorem rank_of_feq0 (h : feq0 x = true) : rank x = 0 := by
  rw [rank, feq0_iff_magBits.mp h]
  split <;> rfl

/-- The positive half of the `x` axis. -/
theorem fatan2_zero_left (h : flt zero x = true) : fatan2 zero x = zero := by
  obtain ⟨-, hx, hpos⟩ := numbers_of_flt h
  have h0 : feq0 x = false := Bool.eq_false_iff.mpr fun h0 => hpos.ne' (rank_of_feq0 h0)
  rw [fatan2_of_number (by decide) hx (by simp [h0]), if_pos ⟨rfl, h⟩]

/-- The two halves of the `y` axis. -/
theorem fatan2_zero_right (hy : isNaN y = false) (h0 : feq0 y = false) :
    fatan2 y zero = if flt zero y then halfPi else fneg halfPi := by
  have hzero : ¬(y = zero ∧ flt zero zero = true) := fun h => absurd h.2 (by decide)
  rw [fatan2_of_number hy (by decide) (by simp [h0]), if_neg hzero, if_pos rfl]

theorem fatan2_zero_right_of_pos (h : flt zero y = true) : fatan2 y zero = halfPi := by
  obtain ⟨-, hy, hpos⟩ := numbers_of_flt h
  rw [fatan2_zero_right hy (Bool.eq_false_iff.mpr fun h0 => hpos.ne' (rank_of_feq0 h0)), if_pos h]

theorem fatan2_zero_right_of_neg (h : flt y zero = true) : fatan2 y zero = fneg halfPi := by
  obtain ⟨hy, -, hneg⟩ := numbers_of_flt h
  rw [fatan2_zero_right hy (Bool.eq_false_iff.mpr fun h0 => hneg.ne (rank_of_feq0 h0)),
    if_neg (Bool.eq_false_iff.mp (flt_asymm h))]

end Sys2Proof.F32
end

section
/-! The commands of 41_complex_alu: the samples of the complex banks (R174, R175), the registers (R171 to R173), and the
arithmetic (R176 to R185). -/

namespace Sys2Proof.Machine

open Sys2Proof

/-! ### One complex sample -/

/-- A command that stores one sample of a complex bank changes that bank and `pc`, and of the bank the sample's two
words alone. -/
theorem done_writeCplx (s : State) (b : Fin 4) (i : Nat) (z : Cplx) :
    ∃ B : Bank, done (s.writeCplx b i z) = .next { s with CB := s.CB.set b B, pc := s.pc + 1 } ∧
      B.len = s.clen b ∧ B.mem.read (.cplx b) (2 * i) = z.re ∧ B.mem.read (.cplx b) (2 * i + 1) = z.im ∧
      ∀ k, k ≠ 2 * i → k ≠ 2 * i + 1 → B.mem.read (.cplx b) k = s.readCplxWord b k := by
  refine ⟨{ s.CB[b] with mem := (s.CB[b].mem.write (2 * i) z.re).write (2 * i + 1) z.im }, ?_, rfl, ?_, ?_, ?_⟩
  · simp [done, State.advance, State.writeCplx, State.writeCplxWord]
  · rw [Mem.read_write_ne _ _ _ (by omega), Mem.read_write_same]
  · rw [Mem.read_write_same]
  · intro k hre him
    rw [Mem.read_write_ne _ _ _ him, Mem.read_write_ne _ _ _ hre]
    rfl

/-- Settles O21: below the length the load and the store reach both words of sample `P[pi]`, from the length on their
check raises. -/
theorem complexElements : Obligations.ComplexElements := by
  refine ⟨fun zd cs pi s => ⟨rfl, fun h => ?_, fun h => ?_⟩, fun cd pi zs s => ⟨rfl, fun h => ?_, fun h => ?_⟩⟩
  · rw [exec, execZld, elementIndex_of_lt h]
    rfl
  · rw [exec, execZld, elementIndex_of_le h]
    rfl
  · rw [exec, execZst, elementIndex_of_lt h]
    exact done_writeCplx s cd (s.idx pi) (s.getZ zs)
  · rw [exec, execZst, elementIndex_of_le h]
    rfl

/-! ### Registers and arithmetic -/

/-- Settles O22: the next states are those of the rules by definition. -/
theorem complexRegisterMoves : Obligations.ComplexRegisterMoves :=
  ⟨fun _ _ _ _ => ⟨rfl, rfl⟩, fun _ _ _ => ⟨rfl, rfl, rfl, rfl⟩⟩

/-- Settles O23: the four operations are the rules' formulas by definition. -/
theorem complexArithmetic : Obligations.ComplexArithmetic :=
  ⟨fun _ _ _ _ => ⟨rfl, rfl, rfl, rfl, rfl, rfl⟩, fun _ _ _ => ⟨rfl, rfl⟩⟩

theorem ciszero_iff {a : Cplx} : ciszero a = true ↔
    (a.re = 0x00000000#32 ∨ a.re = 0x80000000#32) ∧ (a.im = 0x00000000#32 ∨ a.im = 0x80000000#32) := by
  rw [ciszero, Bool.and_eq_true, F32.feq0_iff, F32.feq0_iff]

/-- Settles O24: the tests for a zero are tests for its two patterns. -/
theorem complexMetrics : Obligations.ComplexMetrics := by
  refine ⟨fun pd zs s => ⟨rfl, rfl, rfl, ?_⟩, fun zd zs s => ⟨rfl, ?_⟩⟩
  · simp only [← ciszero_iff]
    rfl
  · simp only [← F32.feq0_iff]
    rfl

/-- Settles O25: each half-axis is a branch of the arctangent, and every value it takes is at most `pi` in size. -/
theorem phase : Obligations.Phase :=
  ⟨fun _ _ _ => ⟨rfl, rfl⟩, fun _ => F32.fatan2_zero_left, fun _ => F32.fatan2_zero_right_of_pos,
    fun _ => F32.fatan2_zero_right_of_neg, fun _ _ => F32.isNaN_fatan2,
    fun _ _ hy hx h0 => F32.fle_pi_of_magBits_le (F32.magBits_fatan2_le hy hx h0)⟩

/-! ### Division -/

theorem execZdiv_eq (zd za zb : Fin 8) (s : State) : execZdiv zd za zb s =
    if F32.feq0 (cnormSq (s.getZ zb)) then .next (s.takeFault .divZero zb.val)
    else done (s.setZ zd (cdiv (s.getZ za) (s.getZ zb))) := by
  rw [execZdiv, finish_require_bind]
  cases F32.feq0 (cnormSq (s.getZ zb)) <;> rfl

theorem execZdivs_eq (zd za : Fin 8) (ps : Fin 16) (s : State) : execZdivs zd za ps s =
    if F32.feq0 (s.getP ps) then .next (s.takeFault .divZero ps.val)
    else done (s.setZ zd (cdivs (s.getZ za) (s.getP ps))) := by
  rw [execZdivs, finish_require_bind, State.real]
  cases F32.feq0 (s.getP ps) <;> rfl

/-- Settles O26, by the one check that each command makes of its divisor. -/
theorem complexDivision : Obligations.ComplexDivision := by
  refine ⟨fun zd za zb s => ⟨rfl, fun h => ?_, fun h => ?_⟩, fun zd za ps s => ⟨rfl, fun h => ?_, fun h => ?_⟩⟩
  · rw [exec, execZdiv_eq, cnormSq, h]
    rfl
  · rw [exec, execZdiv_eq, cnormSq, h]
    rfl
  · rw [exec, execZdivs_eq, h]
    rfl
  · rw [exec, execZdivs_eq, h]
    rfl

end Sys2Proof.Machine
end

section
/-! Buffers of samples read index by index, and the powers of two that are their lengths (00_scope R10). -/

namespace Sys2Proof.Machine

open Sys2Proof

theorem ispow2_iff {n : Nat} : ispow2 n = true ↔ 2 ^ Nat.log2 n = n := by
  simp only [ispow2, Bool.and_eq_true, bne_iff_ne, beq_iff_eq, and_iff_right_iff_imp]
  exact fun h => h ▸ (Nat.two_pow_pos _).ne'

section
variable {x y : List Cplx} {i : Nat}

theorem at_eq_getElem (h : i < x.length) : at_ x i = x[i] := List.getD_eq_getElem x Cplx.zero h

theorem at_of_length_le (h : x.length ≤ i) : at_ x i = Cplx.zero := List.getD_eq_default x Cplx.zero h

/-- Two buffers are equal when they have one length and the same samples. -/
theorem eq_of_at_eq (hlen : x.length = y.length) (h : ∀ i, i < x.length → at_ x i = at_ y i) : x = y :=
  List.ext_getElem hlen fun i hx hy => by rw [← at_eq_getElem hx, ← at_eq_getElem hy, h i hx]

theorem at_map_range {n : Nat} (f : Nat → Cplx) (h : i < n) : at_ ((List.range n).map f) i = f i := by
  rw [at_eq_getElem (by simpa using h), List.getElem_map, List.getElem_range]

theorem map_range_at (x : List Cplx) : (List.range x.length).map (at_ x) = x :=
  eq_of_at_eq (by simp) fun _ hi => at_map_range _ (by simpa using hi)

@[simp] theorem at_set_same (h : i < x.length) (z : Cplx) : at_ (x.set i z) i = z := by simp [at_, h]

theorem at_set_ne {k : Nat} (h : i ≠ k) (z : Cplx) : at_ (x.set k z) i = at_ x i := by simp [at_, h.symm]

end

/-- A loop `for k in 0 .. n-1` that leads from `P k` to `P (k + 1)` in each round leads from `P 0` to `P n`. -/
theorem foldl_range_invariant {α : Type} {f : α → Nat → α} {n : Nat} (P : Nat → α → Prop) {a : α} (h0 : P 0 a)
    (hstep : ∀ k y, k < n → P k y → P (k + 1) (f y k)) : P n ((List.range n).foldl f a) := by
  induction n with
  | zero => exact h0
  | succ n ih =>
    rw [List.range_succ, List.foldl_append]
    exact hstep n _ n.lt_succ_self (ih fun k y hk => hstep k y (hk.trans n.lt_succ_self))

end Sys2Proof.Machine
end

section
/-! The butterflies of a stage, numbered in the order the loops of 42_fft_engine R204 do them: number `q * m + j` is
butterfly `j` of block `q`, and it alone reads and writes samples `2qm + j` and `2qm + j + m`. So after `t` butterflies
the samples of those done have the values of the stage and all others are untouched (`StageProgress`). -/

namespace Sys2Proof.Machine

open Sys2Proof

variable {gen : Config.TwiddleGen} {dir : Dir} {m q j i t : Nat} {x y : List Cplx}

/-- The number of the butterfly that sample `i` belongs to in the stage of size `m`. -/
def butterflyNumber (m i : Nat) : Nat := i / (2 * m) * m + i % m

theorem block_of_upper (hj : j < m) : (q * (2 * m) + j) / (2 * m) = q := by
  rw [Nat.mul_comm, Nat.mul_add_div (by omega), Nat.div_eq_of_lt (by omega), Nat.add_zero]

theorem block_of_lower (hj : j < m) : (q * (2 * m) + j + m) / (2 * m) = q := by
  rw [Nat.add_assoc, Nat.mul_comm, Nat.mul_add_div (by omega), Nat.div_eq_of_lt (by omega), Nat.add_zero]

theorem butterflyNumber_upper (hj : j < m) : butterflyNumber m (q * (2 * m) + j) = q * m + j := by
  rw [butterflyNumber, block_of_upper hj, ← Nat.mul_assoc, Nat.mul_add_mod_self_right, Nat.mod_eq_of_lt hj]

theorem butterflyNumber_lower (hj : j < m) : butterflyNumber m (q * (2 * m) + j + m) = q * m + j := by
  rw [butterflyNumber, block_of_lower hj, Nat.add_mod_right, ← Nat.mul_assoc, Nat.mul_add_mod_self_right,
    Nat.mod_eq_of_lt hj]

/-- Every sample is the upper or the lower one of a butterfly. -/
theorem eq_upper_or_lower (hm : 0 < m) (i : Nat) :
    ∃ q j, j < m ∧ (i = q * (2 * m) + j ∨ i = q * (2 * m) + j + m) := by
  have hi := Nat.div_add_mod' i (2 * m)
  have hlt := Nat.mod_lt i (Nat.mul_pos two_pos hm)
  obtain hup | hlow := Nat.lt_or_ge (i % (2 * m)) m
  · exact ⟨i / (2 * m), i % (2 * m), hup, .inl hi.symm⟩
  · exact ⟨i / (2 * m), i % (2 * m) - m, by omega, .inr (by omega)⟩

/-- The two samples of a butterfly are the only ones of its number. -/
theorem butterflyNumber_eq_iff (hj : j < m) :
    butterflyNumber m i = q * m + j ↔ i = q * (2 * m) + j ∨ i = q * (2 * m) + j + m := by
  constructor
  · intro h
    obtain ⟨q', j', hj', hi⟩ := eq_upper_or_lower (Nat.zero_lt_of_lt hj) i
    have hnum : q' * m + j' = q * m + j := by
      rw [← h]
      rcases hi with rfl | rfl
      · exact (butterflyNumber_upper hj').symm
      · exact (butterflyNumber_lower hj').symm
    obtain ⟨rfl, rfl⟩ : q' = q ∧ j' = j := by
      have hq := congrArg (· / m) hnum
      have hr := congrArg (· % m) hnum
      simpa [Nat.mul_comm _ m, Nat.mul_add_div (Nat.zero_lt_of_lt hj), Nat.div_eq_of_lt, Nat.mod_eq_of_lt, hj, hj']
        using And.intro hq hr
    exact hi
  · rintro (rfl | rfl)
    · exact butterflyNumber_upper hj
    · exact butterflyNumber_lower hj

theorem at_stage_upper (hj : j < m) (hi : q * (2 * m) + j < x.length) :
    at_ (stage gen dir m x) (q * (2 * m) + j) = (stageButterfly gen dir m x (q * (2 * m)) j).1 := by
  rw [stage, at_map_range _ hi]
  simp [block_of_upper hj, hj]

theorem at_stage_lower (hj : j < m) (hi : q * (2 * m) + j + m < x.length) :
    at_ (stage gen dir m x) (q * (2 * m) + j + m) = (stageButterfly gen dir m x (q * (2 * m)) j).2 := by
  rw [stage, at_map_range _ hi]
  have hlow : q * (2 * m) + j + m - q * (2 * m) = j + m := by omega
  simp [block_of_lower hj, hlow]

@[simp] theorem butterflyInPlace_length (p : Nat) : (butterflyInPlace gen dir m p y j).length = y.length := by
  rw [butterflyInPlace]
  split <;> simp

/-- The zero-skip leaves the upper sample as it is, which is what the butterfly answers for it. -/
theorem at_butterflyInPlace (hm : 0 < m) {p : Nat} (hlow : p + j + m < y.length) :
    at_ (butterflyInPlace gen dir m p y j) (p + j) = (stageButterfly gen dir m y p j).1 ∧
    at_ (butterflyInPlace gen dir m p y j) (p + j + m) = (stageButterfly gen dir m y p j).2 ∧
    ∀ i, i ≠ p + j → i ≠ p + j + m → at_ (butterflyInPlace gen dir m p y j) i = at_ y i := by
  have hup : p + j < y.length := by omega
  have hne : p + j ≠ p + j + m := by omega
  rw [butterflyInPlace, stageButterfly, butterfly]
  split
  · exact ⟨at_set_ne hne _, at_set_same hlow _, fun i _ h => at_set_ne h _⟩
  · refine ⟨at_set_same (by simpa using hup) _, ?_, fun i h h' => ?_⟩
    · rw [at_set_ne hne.symm, at_set_same hlow]
    · rw [at_set_ne h, at_set_ne h']

/-- `y` is what the loops have made of `x` after `t` butterflies of the stage of size `m`. -/
structure StageProgress (gen : Config.TwiddleGen) (dir : Dir) (m : Nat) (x : List Cplx) (t : Nat) (y : List Cplx) :
    Prop where
  length : y.length = x.length
  done : ∀ i, butterflyNumber m i < t → at_ y i = at_ (stage gen dir m x) i
  untouched : ∀ i, t ≤ butterflyNumber m i → at_ y i = at_ x i

theorem StageProgress.zero : StageProgress gen dir m x 0 x :=
  ⟨rfl, fun _ h => absurd h (Nat.not_lt_zero _), fun _ _ => rfl⟩

/-- Butterfly `j` of block `q` reads two samples that nothing has written so far. -/
theorem StageProgress.butterfly (h : StageProgress gen dir m x (q * m + j) y) (hj : j < m)
    (hlow : q * (2 * m) + j + m < x.length) :
    StageProgress gen dir m x (q * m + j + 1) (butterflyInPlace gen dir m (q * (2 * m)) y j) := by
  obtain ⟨hup', hlow', hrest⟩ :=
    at_butterflyInPlace (gen := gen) (dir := dir) (Nat.zero_lt_of_lt hj) (h.length.symm ▸ hlow)
  have hreads : stageButterfly gen dir m y (q * (2 * m)) j = stageButterfly gen dir m x (q * (2 * m)) j := by
    rw [stageButterfly, stageButterfly, h.length, h.untouched _ (butterflyNumber_upper hj).ge,
      h.untouched _ (butterflyNumber_lower hj).ge]
  have hother : ∀ i, butterflyNumber m i ≠ q * m + j →
      at_ (butterflyInPlace gen dir m (q * (2 * m)) y j) i = at_ y i := by
    intro i hi
    rw [Ne, butterflyNumber_eq_iff hj, not_or] at hi
    exact hrest i hi.1 hi.2
  refine ⟨by rw [butterflyInPlace_length, h.length], fun i hi => ?_, fun i hi => ?_⟩
  · obtain hi | hi := Nat.lt_succ_iff_lt_or_eq.mp hi
    · rw [hother i hi.ne, h.done i hi]
    · obtain rfl | rfl := (butterflyNumber_eq_iff hj).mp hi
      · rw [hup', hreads, at_stage_upper hj (by omega)]
      · rw [hlow', hreads, at_stage_lower hj hlow]
  · rw [hother i (by omega), h.untouched i (by omega)]

/-- After its last butterfly the stage is complete: every sample below the length has a smaller number. -/
theorem StageProgress.eq_stage (h : StageProgress gen dir m x (x.length / (2 * m) * m) y) (hm : 0 < m)
    (hdvd : 2 * m ∣ x.length) : y = stage gen dir m x := by
  refine eq_of_at_eq (by rw [h.length, stage_length]) fun i hi => h.done i ?_
  have hblock : i / (2 * m) + 1 ≤ x.length / (2 * m) := Nat.div_lt_div_of_lt_of_dvd hdvd (h.length ▸ hi)
  calc butterflyNumber m i
    _ < i / (2 * m) * m + m := Nat.add_lt_add_left (Nat.mod_lt i hm) _
    _ = (i / (2 * m) + 1) * m := (Nat.succ_mul _ _).symm
    _ ≤ x.length / (2 * m) * m := Nat.mul_le_mul_right m hblock

theorem stageInPlace_eq_stage (hm : 0 < m) (hdvd : 2 * m ∣ x.length) :
    stageInPlace gen dir x m = stage gen dir m x := by
  refine StageProgress.eq_stage ?_ hm hdvd
  refine foldl_range_invariant (fun q => StageProgress gen dir m x (q * m)) (by simpa using .zero) fun q y hq hy => ?_
  have hblock : q * (2 * m) + 2 * m ≤ x.length := by
    rw [← Nat.succ_mul]
    exact (Nat.mul_le_mul_right _ hq).trans (Nat.div_mul_le_self _ _)
  rw [Nat.succ_mul]
  exact foldl_range_invariant (fun j => StageProgress gen dir m x (q * m + j)) hy fun j y hj hy =>
    hy.butterfly hj (by omega)

/-- Stage by stage, where twice the size of each stage divides the length, which no stage changes. -/
theorem foldl_stageInPlace {ks : List Nat} (h : ∀ k ∈ ks, 2 * 2 ^ k ∣ x.length) :
    ks.foldl (fun y k => stageInPlace gen dir y (2 ^ k)) x = ks.foldl (fun y k => stage gen dir (2 ^ k) y) x := by
  induction ks generalizing x with
  | nil => rfl
  | cons k ks ih =>
    obtain ⟨hk, hks⟩ := List.forall_mem_cons.mp h
    rw [List.foldl_cons, List.foldl_cons, stageInPlace_eq_stage (Nat.two_pow_pos k) hk, ih (by simpa using hks)]

theorem stagesInPlace_eq_stages (hx : ispow2 x.length = true) : stagesInPlace gen dir x = stages gen dir x := by
  rw [stagesInPlace, stages, List.foldl_map]
  refine foldl_stageInPlace fun k hk => ?_
  rw [← ispow2_iff.mp hx, ← Nat.pow_succ']
  exact Nat.pow_dvd_pow 2 (List.mem_range.mp hk)

/-- Settles O31: of a stage each butterfly reads samples that no other has written, so each stage is computed. -/
theorem stagesInPlace : Obligations.StagesInPlace := fun _ _ _ => stagesInPlace_eq_stages

end Sys2Proof.Machine
end

section
/-! The bit reversal of 00_scope R10 and the permutation of a buffer by it (42_fft_engine R202). -/

namespace Sys2Proof

theorem rev_lt (n i : Nat) : rev n i < 2 ^ n := by
  induction n generalizing i with
  | zero => exact Nat.one_pos
  | succ n ih =>
    have hbit : i % 2 * 2 ^ n ≤ 1 * 2 ^ n := Nat.mul_le_mul_right _ (Nat.le_of_lt_succ (Nat.mod_lt i two_pos))
    have := ih (i / 2)
    rw [rev]
    omega

/-- The top bit is the lowest one of `i`; the bits below it are the reversal of the rest. -/
theorem testBit_rev {n k : Nat} (i : Nat) (hk : k < n) : (rev n i).testBit k = i.testBit (n - 1 - k) := by
  induction n generalizing i with
  | zero => exact absurd hk (Nat.not_lt_zero k)
  | succ n ih =>
    rw [rev, Nat.mul_comm, Nat.testBit_two_pow_mul_add _ (rev_lt n _)]
    split
    next hlt =>
      rw [ih _ hlt, ← Nat.testBit_add_one]
      congr 1
      omega
    next hge =>
      obtain rfl : k = n := by omega
      simp

/-- Bit `k` goes to place `n - 1 - k` and from there back to `k`. -/
theorem rev_rev {n i : Nat} (hi : i < 2 ^ n) : rev n (rev n i) = i := by
  refine Nat.eq_of_testBit_eq fun k => ?_
  obtain hk | hk := Nat.lt_or_ge k n
  · rw [testBit_rev _ hk, testBit_rev _ (by omega)]
    congr 1
    omega
  · have hpow : 2 ^ n ≤ 2 ^ k := Nat.pow_le_pow_right two_pos hk
    rw [Nat.testBit_lt_two_pow ((rev_lt n _).trans_le hpow), Nat.testBit_lt_two_pow (hi.trans_le hpow)]

namespace Machine

section
variable {x : List Cplx} {i : Nat}

theorem bitrev_eq_map_at (x : List Cplx) :
    bitrev x = ((List.range x.length).map (rev (Nat.log2 x.length))).map (at_ x) := by
  rw [List.map_map]
  rfl

theorem at_bitrev (hi : i < x.length) : at_ (bitrev x) i = at_ x (rev (Nat.log2 x.length) i) := at_map_range _ hi

theorem rev_lt_length (hx : ispow2 x.length = true) (i : Nat) : rev (Nat.log2 x.length) i < x.length :=
  (rev_lt _ i).trans_eq (ispow2_iff.mp hx)

theorem rev_rev_of_lt_length (hx : ispow2 x.length = true) (hi : i < x.length) :
    rev (Nat.log2 x.length) (rev (Nat.log2 x.length) i) = i :=
  rev_rev (hi.trans_eq (ispow2_iff.mp hx).symm)

theorem at_bitrev_rev (hx : ispow2 x.length = true) (hi : i < x.length) :
    at_ (bitrev x) (rev (Nat.log2 x.length) i) = at_ x i := by
  rw [at_bitrev (rev_lt_length hx i), rev_rev_of_lt_length hx hi]

theorem bitrev_bitrev (hx : ispow2 x.length = true) : bitrev (bitrev x) = x := by
  refine eq_of_at_eq (by simp) fun i hi => ?_
  rw [bitrev_length, bitrev_length] at hi
  rw [at_bitrev (by simpa using hi), bitrev_length, at_bitrev_rev hx hi]

end

/-- The order R202 prints for `N = 8`. -/
theorem bitrev_eight (x0 x1 x2 x3 x4 x5 x6 x7 : Cplx) :
    bitrev [x0, x1, x2, x3, x4, x5, x6, x7] = [x0, x4, x2, x6, x1, x5, x3, x7] := by
  have hrev : (List.range 8).map (rev (Nat.log2 8)) = [0, 4, 2, 6, 1, 5, 3, 7] := by decide
  calc bitrev [x0, x1, x2, x3, x4, x5, x6, x7]
    _ = ((List.range 8).map (rev (Nat.log2 8))).map (at_ [x0, x1, x2, x3, x4, x5, x6, x7]) := bitrev_eq_map_at _
    _ = [x0, x4, x2, x6, x1, x5, x3, x7] := by rw [hrev]; rfl

/-- Settles O30: the reversal is an involution bit by bit, so the permutation by it is one. -/
theorem bitReversal : Obligations.BitReversal :=
  ⟨fun _ i _ hk => testBit_rev i hk, rev_lt, fun _ _ => rev_rev,
    fun x hx => ⟨bitrev_length x, fun _ hi => at_bitrev_rev hx hi, bitrev_bitrev hx⟩,
    bitrev_eight⟩

end Machine

end Sys2Proof
end

section
/-! The commands that transform a bank in place (42_fft_engine R212 to R215): the check of the length (R353), then the
bank overwritten by a function of its samples. -/

namespace Sys2Proof.Machine

open Sys2Proof

section
variable {s : State} {cb : Fin 4} {f : List Cplx → List Cplx}

theorem finish_inPlace_of_ispow2 (h : ispow2 (s.clen cb) = true) :
    finish s (inPlace s cb f) = done (s.updCplxBuf cb (f (s.cplxBuf cb))) := by
  rw [inPlace, requirePow2, finish_require_bind, if_pos h]
  rfl

theorem finish_inPlace_of_not_ispow2 (h : ispow2 (s.clen cb) = false) :
    finish s (inPlace s cb f) = .next (s.takeFault .notPow2 (s.clen cb)) := by
  rw [inPlace, requirePow2, finish_require_bind, h]
  rfl

end

/-- A command that overwrites the samples of a complex bank changes that bank and `pc`; the bank keeps its length and
then holds the new samples. -/
theorem done_updCplxBuf (s : State) (b : Fin 4) {xs : List Cplx} (h : xs.length = s.clen b) :
    ∃ B : Bank, done (s.updCplxBuf b xs) = .next { s with CB := s.CB.set b B, pc := s.pc + 1 } ∧
      B.len = s.clen b ∧ B.holdsCplx b xs :=
  ⟨_, rfl, rfl, Bank.holdsCplx_of_words h.symm fun _ hi => Mem.read_overwrite _ _ _ hi⟩

/-- Settles O28, by the one check that the four commands make; the scaling divides both components by `N` (R208). -/
theorem transformsInPlace : Obligations.TransformsInPlace := by
  intro cb dir s
  refine ⟨rfl, rfl, rfl, rfl, fun h => ?_, fun h => ?_⟩
  · simp only [exec, execBitrev, execBfly, execFft, execIfft, finish_inPlace_of_ispow2 h]
    refine ⟨done_updCplxBuf s cb (by simp), done_updCplxBuf s cb (by simp), done_updCplxBuf s cb (by simp), ?_⟩
    have hscale : ifft s.cfg.twiddle (s.cplxBuf cb) = (stages s.cfg.twiddle .inv (bitrev (s.cplxBuf cb))).map fun z =>
        ⟨F32.fdiv z.re (F32.u2f (s.clen cb)), F32.fdiv z.im (F32.u2f (s.clen cb))⟩ := by
      simp [ifft, scale, cdivs]
    rw [← hscale]
    exact done_updCplxBuf s cb (by simp)
  · simp only [exec, execBitrev, execBfly, execFft, execIfft, finish_inPlace_of_not_ispow2 h, and_self]

end Sys2Proof.Machine
end

section
/-! The twiddle table (42_fft_engine R210, R211). The default one depends on the angle `k/N` alone, so the values at
`N = 1` and `N = 4` are those at `k = 0` and at the quadrant points for every length; its series stay within `[0, 1]`,
so its components stay within `[-1, 1]`. -/

namespace Sys2Proof.Twiddle

open F32

/-! ### The default table depends on the angle alone -/

section
variable {a : Nat} (ha : 0 < a) (n r k : Nat) (dir : Dir)
include ha

theorem angle_scale : angle (a * r) (a * n) = angle r n := by
  rw [angle, angle, Nat.mul_left_comm, Nat.mul_div_mul_left _ _ ha]

theorem firstQuadrant_scale : firstQuadrant (a * r) (a * n) = firstQuadrant r n := by
  have hhalf : 2 * (a * r) ≤ a * n ↔ 2 * r ≤ n := by rw [Nat.mul_left_comm, Nat.mul_le_mul_left_iff ha]
  rw [firstQuadrant, firstQuadrant, ← Nat.mul_sub, angle_scale ha, angle_scale ha]
  simp only [hhalf]

theorem cosSin_scale : cosSin (a * n) (a * k) = cosSin n k := by
  rw [cosSin, cosSin, Nat.mul_left_comm 4 a k, Nat.mul_mod_mul_left, Nat.mul_div_mul_left _ _ ha,
    firstQuadrant_scale ha]

theorem default_scale : default dir (a * n) (a * k) = default dir n k := by
  rw [default, default, Nat.mul_mod_mul_left, cosSin_scale ha]

end

theorem default_zero (dir : Dir) {n : Nat} (hn : 0 < n) : default dir n 0 = ⟨0x3F800000#32, 0x00000000#32⟩ := by
  have h1 : ∀ dir, default dir 1 0 = ⟨0x3F800000#32, 0x00000000#32⟩ := by
    intro dir
    cases dir <;> decide +kernel
  calc default dir n 0
    _ = default dir (n * 1) (n * 0) := by rw [Nat.mul_one, Nat.mul_zero]
    _ = default dir 1 0 := default_scale hn 1 0 dir
    _ = ⟨0x3F800000#32, 0x00000000#32⟩ := h1 dir

/-! ### Its components are in `[-1, 1]`, and no zero is negative -/

/-- What R210 says of a component of the default table: it is in `[-1, 1]`, and not `-0`. -/
structure IsComponent (x : F32) : Prop where
  magBits_le : magBits x ≤ 0x3F800000
  ne_negZero : x ≠ 0x80000000#32

theorem series_le (x k c : Nat) : series x k c ≤ oneFixed := by
  cases k with
  | zero => exact le_rfl
  | succ k => exact Nat.sub_le _ _

theorem cosFixed_le (a : Nat) : cosFixed a ≤ oneFixed := series_le _ _ _

theorem sinFixed_le {a : Nat} (ha : a ≤ oneFixed) : sinFixed a ≤ oneFixed :=
  Nat.div_le_of_le_mul (Nat.mul_le_mul ha (series_le _ _ _))

/-- An angle up to `pi/4` is less than 1. -/
theorem angle_le {r n : Nat} (h : 2 * r ≤ n) : angle r n ≤ oneFixed := by
  have hpi : halfPiFixed ≤ 2 * oneFixed := by decide
  refine Nat.div_le_of_le_mul ?_
  calc halfPiFixed * r
    _ ≤ 2 * oneFixed * r := Nat.mul_le_mul_right r hpi
    _ = 2 * r * oneFixed := Nat.mul_right_comm 2 oneFixed r
    _ ≤ n * oneFixed := Nat.mul_le_mul_right oneFixed h

/-- A fixed-point number below 1 has its last place at most at `2^-24`, and a significand of at most `2^24` of them. -/
theorem roundMag_fixed_le {m : Nat} (h : m ≤ oneFixed) : roundMag m (-128) ≤ 0x3F800000 := by
  obtain rfl | hlt := h.eq_or_lt
  · decide +kernel
  · obtain rfl | hm := eq_or_ne m 0
    · decide
    · have hlog : Nat.log2 m < 128 := (Nat.log2_lt hm).mpr hlt
      have hsig : significand m (-128) ≤ 2 ^ 24 := (StandsFor.isRounding (.inl rfl) hm (-128)).le
      have hulp : (ulpExp m (-128) + 149).toNat ≤ 125 := by
        rw [ulpExp]
        omega
      rw [roundMag_eq hm]
      omega

theorem nearest_isComponent {m : Nat} (h : m ≤ oneFixed) : IsComponent (nearest m) where
  magBits_le := by
    have hmag := roundMag_fixed_le h
    rwa [nearest, magBits_pack _ (by omega)]
  ne_negZero h0 := by
    have hsign : sign (nearest m) = false := sign_pack_roundMag false m (-128)
    rw [h0] at hsign
    exact absurd hsign (by decide)

theorem negNonzero_isComponent {x : F32} (h : IsComponent x) : IsComponent (negNonzero x) := by
  rw [negNonzero]
  split
  next => exact ⟨by decide, by decide⟩
  next h0 =>
    refine ⟨by rw [magBits_fneg]; exact h.magBits_le, fun he => h0 ?_⟩
    rw [feq0_iff]
    exact .inl (fneg_eq_negZero_iff.mp he)

theorem firstQuadrant_isComponent (r n : Nat) :
    IsComponent (firstQuadrant r n).1 ∧ IsComponent (firstQuadrant r n).2 := by
  rw [firstQuadrant]
  split
  next h => exact ⟨nearest_isComponent (cosFixed_le _), nearest_isComponent (sinFixed_le (angle_le h))⟩
  next h =>
    have hrest : angle (n - r) n ≤ oneFixed := angle_le (by omega)
    exact ⟨nearest_isComponent (sinFixed_le hrest), nearest_isComponent (cosFixed_le _)⟩

theorem cosSin_isComponent (n k : Nat) : IsComponent (cosSin n k).1 ∧ IsComponent (cosSin n k).2 := by
  obtain ⟨hc, hs⟩ := firstQuadrant_isComponent (4 * k % n) n
  rw [cosSin]
  generalize firstQuadrant (4 * k % n) n = q at hc hs
  dsimp only
  split
  · exact ⟨hc, hs⟩
  · exact ⟨negNonzero_isComponent hs, hc⟩
  · exact ⟨negNonzero_isComponent hc, negNonzero_isComponent hs⟩
  · exact ⟨hs, negNonzero_isComponent hc⟩

theorem default_isComponent (dir : Dir) (n k : Nat) :
    IsComponent (default dir n k).re ∧ IsComponent (default dir n k).im := by
  obtain ⟨hc, hs⟩ := cosSin_isComponent n (k % n)
  cases dir with
  | fwd => exact ⟨hc, negNonzero_isComponent hs⟩
  | inv => exact ⟨hc, hs⟩

/-! ### Every admissible table -/

theorem magBits_bounded_le (x : F32) : magBits (bounded x) ≤ 0x3F800000 := by
  rw [bounded]
  split
  · assumption
  · decide

theorem magBits_admissible_le (name : Nat) (dir : Dir) (n k : Nat) :
    magBits (admissible name dir n k).re ≤ 0x3F800000 ∧ magBits (admissible name dir n k).im ≤ 0x3F800000 := by
  rw [admissible]
  split
  · exact ⟨by decide, by decide⟩
  · exact ⟨magBits_bounded_le _, magBits_bounded_le _⟩

theorem admissible_zero (name : Nat) (dir : Dir) (n : Nat) :
    admissible name dir n 0 = ⟨0x3F800000#32, 0x00000000#32⟩ := by
  have hone : u2f 1 = 0x3F800000#32 := by decide
  rw [admissible, if_pos (Nat.zero_mod n), hone]
  rfl

/-- A pattern is in `[-1, 1]` when its magnitude is at most that of 1. -/
theorem fle_one_of_magBits_le {x : F32} (h : magBits x ≤ 0x3F800000) :
    fle 0xBF800000#32 x = true ∧ fle x 0x3F800000#32 = true := by
  have hx : isNaN x = false := by
    rw [isNaN_eq, decide_eq_false_iff_not, not_lt]
    exact h.trans (by decide)
  have hlo : rank 0xBF800000#32 = -0x3F800000 := by decide
  have hhi : rank 0x3F800000#32 = 0x3F800000 := by decide
  rw [fle_iff (by decide) hx, fle_iff hx (by decide), hlo, hhi, rank]
  split <;> omega

end Sys2Proof.Twiddle

namespace Sys2Proof

open Twiddle

theorem TW_mod (gen : Config.TwiddleGen) (dir : Dir) (n k : Nat) : TW gen dir n k = TW gen dir n (k % n) := by
  cases gen with
  | correctlyRounded => simp only [TW, Twiddle.default, Nat.mod_mod]
  | other name => simp only [TW, admissible, Nat.mod_mod]

theorem TW_zero (gen : Config.TwiddleGen) (dir : Dir) {n : Nat} (hn : 0 < n) :
    TW gen dir n 0 = ⟨0x3F800000#32, 0x00000000#32⟩ := by
  cases gen with
  | correctlyRounded => exact default_zero dir hn
  | other name => exact admissible_zero name dir n

theorem magBits_TW_le (gen : Config.TwiddleGen) (dir : Dir) (n k : Nat) :
    F32.magBits (TW gen dir n k).re ≤ 0x3F800000 ∧ F32.magBits (TW gen dir n k).im ≤ 0x3F800000 := by
  cases gen with
  | correctlyRounded =>
    obtain ⟨hre, him⟩ := default_isComponent dir n k
    exact ⟨hre.magBits_le, him.magBits_le⟩
  | other name => exact magBits_admissible_le name dir n k

/-- The values R211 prints for `N = 4`. -/
theorem TW_four : [1, 2, 3].map (TW .correctlyRounded .fwd 4) =
    [⟨0x00000000#32, 0xBF800000#32⟩, ⟨0xBF800000#32, 0x00000000#32⟩, ⟨0x00000000#32, 0x3F800000#32⟩] := by
  decide +kernel

/-- The quadrant points of every length are those of length 4. -/
theorem TW_quadrants {d : Nat} (hd : 0 < d) :
    TW .correctlyRounded .fwd (d * 4) (d * 1) = ⟨0x00000000#32, 0xBF800000#32⟩ ∧
    TW .correctlyRounded .fwd (d * 4) (d * 2) = ⟨0xBF800000#32, 0x00000000#32⟩ ∧
    TW .correctlyRounded .fwd (d * 4) (d * 3) = ⟨0x00000000#32, 0x3F800000#32⟩ := by
  have hscale (k : Nat) : TW .correctlyRounded .fwd (d * 4) (d * k) = TW .correctlyRounded .fwd 4 k :=
    default_scale hd 4 k .fwd
  rw [hscale, hscale, hscale]
  simpa using TW_four

namespace Machine

theorem four_dvd_of_ispow2 {n : Nat} (h : ispow2 n = true) (h4 : 4 ≤ n) : 4 ∣ n := by
  rw [← ispow2_iff.mp h] at h4 ⊢
  exact Nat.pow_dvd_pow 2 ((Nat.pow_le_pow_iff_right one_lt_two (n := 2)).mp h4)

/-- Settles O32: the values R211 prints are computed, the quadrant points are those of `N = 4` at the same angles, and
the rest is `TW` case by case of its generator. -/
theorem twiddleProperties : Obligations.TwiddleProperties := by
  refine ⟨fun gen dir n k hn => ?_, fun n k _ => ?_, fun n hn h4 => ?_, ?_, fun dir n k _ => ?_⟩
  · obtain ⟨hre, him⟩ := magBits_TW_le gen dir n k
    obtain ⟨hre₁, hre₂⟩ := fle_one_of_magBits_le hre
    obtain ⟨him₁, him₂⟩ := fle_one_of_magBits_le him
    exact ⟨TW_mod gen dir n k, TW_zero gen dir (State.one_le_of_ispow2 hn), hre₁, hre₂, him₁, him₂⟩
  · exact ⟨rfl, rfl, (default_isComponent .fwd n k).1.ne_negZero, (default_isComponent .inv n k).2.ne_negZero⟩
  · obtain ⟨d, rfl⟩ := four_dvd_of_ispow2 hn h4
    obtain ⟨h1, h2, h3⟩ := TW_quadrants (d := d) (by omega)
    rw [show 4 * d / 4 = d * 1 by omega, show 4 * d / 2 = d * 2 by omega, show 3 * (4 * d) / 4 = d * 3 by omega,
      Nat.mul_comm 4 d]
    exact ⟨h1, h2, h3⟩
  · exact ⟨by decide +kernel, by decide +kernel, TW_four, by decide +kernel, by decide +kernel⟩
  · exact default_scale two_pos n k dir

/-! ### The command that reads the table -/

section
variable (zd : Fin 8) (dir : Dir) (pn pk : Fin 16) (s : State)

theorem execTwid_eq : execTwid zd dir pn pk s =
    if ispow2 (s.idx pn) then
      if s.idx pn ≤ s.cap then done (s.setZ zd (TW s.cfg.twiddle dir (s.idx pn) (s.idx pk % s.idx pn)))
      else .next (s.takeFault .bounds (s.idx pn))
    else .next (s.takeFault .notPow2 (s.idx pn)) := by
  simp only [execTwid, requirePow2, finish_require_bind, decide_eq_true_eq]
  rfl

end

/-- Settles O29, by the two checks of the command in their order. -/
theorem twiddleRead : Obligations.TwiddleRead := by
  refine ⟨fun gen dir k => ?_, fun zd dir pn pk s => ⟨rfl, fun hn hcap => ?_, fun hn => ?_, fun hn hcap => ?_⟩⟩
  · rw [Nat.mod_one]
    exact TW_zero gen dir one_pos
  · rw [exec, execTwid_eq, if_pos hn, if_pos hcap]
    rfl
  · rw [exec, execTwid_eq, if_neg (by simp [hn])]
  · rw [exec, execTwid_eq, if_pos hn, if_neg (not_le.mpr hcap)]

end Machine

end Sys2Proof
end

section
/-! Commands that are a sequence of others (R213, R233, R235, R236, R256, R285, R304): each command of a sequence in the
form its rule gives it once its checks hold, then the updates of the two runs compared. -/

namespace Sys2Proof.Machine

open Sys2Proof

/-! ### Commands whose checks hold -/

section
variable {s : State}

theorem finish_requireLift_bind {size l : Nat} (hpow : ispow2 size = true) (hcap : size ≤ s.cap) (hl : l ≤ size)
    (k : Unit → Except Raise State) : finish s (requireLift s size l >>= k) = finish s (k ()) := by
  have hok : requireLift s size l = .ok () := requireLift_eq_ok.mpr ⟨hpow, hcap, hl⟩
  rw [hok]
  rfl

variable {cd rs cs : Fin 4} {ps pb pg pstep pn : Fin 16}

section
variable (hpow : ispow2 (s.idx ps) = true) (hcap : s.idx ps ≤ s.cap) (hl : s.rlen rs ≤ s.idx ps)
include hpow hcap hl

theorem execLift_of_fits : execLift cd rs ps s = done (s.setCplxBuf cd (lift (s.realBuf rs) (s.idx ps))) :=
  finish_requireLift_bind hpow hcap hl _

theorem execRfft_of_fits :
    execRfft cd rs ps s = done (s.setCplxBuf cd (rfft s.cfg.twiddle (s.realBuf rs) (s.idx ps))) :=
  finish_requireLift_bind hpow hcap hl _

theorem execXcinit_of_fits :
    execXcinit cd rs ps s = done (s.setCplxBuf cd (conjv (rfft s.cfg.twiddle (s.realBuf rs) (s.idx ps)))) :=
  finish_requireLift_bind hpow hcap hl _

end

theorem execRfftg_of_fits (hne : cd ≠ cs) (hb : ispow2 (s.idx pb) = true) (hg : ispow2 (s.idx pg) = true)
    (hcap : s.idx pb * s.idx pg ≤ s.cap) (hl : s.rlen rs ≤ s.idx pb * s.idx pg) :
    execRfftg cd rs cs pb pg s =
      done ((s.setCplxBuf cs (groupParts s.cfg.twiddle (s.realBuf rs) (s.idx pb) (s.idx pg)).flatten).setCplxBuf cd
        (rfftg s.cfg.twiddle (s.realBuf rs) (s.idx pb) (s.idx pg))) := by
  simp only [execRfftg, requireDistinct, finish_require_bind, decide_eq_true_eq, if_pos hne, if_pos hb, if_pos hg,
    if_pos hcap, if_pos hl]
  rfl

theorem execDecim_of_fits (hstep : s.idx pstep ≠ 0) (hn : s.idx pn ≤ s.cap) :
    execDecim cd cs pstep pn s = done (s.setRealBuf cd (decim (s.cplxBuf cs) (s.idx pstep) (s.idx pn))) := by
  simp only [execDecim, finish_require_bind, decide_eq_true_eq, if_pos hstep, if_pos hn]
  rfl

end

/-! ### The signal functions -/

theorem lift_length_of_le {x : List F32} {size : Nat} (h : x.length ≤ size) : (lift x size).length = size := by
  rw [lift_length, max_eq_right h]

theorem decim_one (w : List Cplx) : decim w 1 w.length = realp w := by
  refine List.ext_getElem (by simp) fun i hi _ => ?_
  have hi : i < w.length := by simpa using hi
  simp [decim, realp, at_eq_getElem hi, hi]

section
variable {gen : Config.TwiddleGen} {x : List F32} {b : Nat}

/-- The one group is the whole padded signal (R233). -/
theorem groupParts_one (hl : x.length ≤ b) : groupParts gen x b 1 = [rfft gen x b] := by
  have hsub : subBlock (lift x b) b 1 0 = lift x b := by
    have hpad := map_range_at (lift x b)
    rw [lift_length_of_le hl] at hpad
    simpa [subBlock] using hpad
  simp [groupParts, part, rfft, hsub]

/-- With one group there is nothing to add: sample `q` is that of the one spectrum. -/
theorem rfftg_one (hl : x.length ≤ b) : rfftg gen x b 1 = rfft gen x b := by
  have hlen : (rfft gen x b).length = b := by rw [rfft_length, max_eq_right hl]
  refine eq_of_at_eq (by simp [hlen]) fun q hq => ?_
  have hq : q < b := by simpa using hq
  rw [rfftg, at_map_range _ (by simpa using hq), groupParts_one hl]
  simp [recombine, Nat.mod_eq_of_lt hq]

end

/-! ### The edges of a passband -/

/-- What the last check of the edges leaves (R251). -/
theorem bpedge_snd_lt {n : Nat} {fs f0 bw : F32} {i0 i1 : Nat} (h : bpedge n fs f0 bw = .ok (i0, i1)) : i1 < n / 2 := by
  simp only [bpedge, bind_eq_ok, pure_eq_ok, require_eq_ok, decide_eq_true_eq, Prod.mk.injEq] at h
  obtain ⟨_, _, _, _, _, _, _, _, _, hlt, _, rfl⟩ := h
  exact hlt

namespace State

section
variable (s : State) {base pd : Fin 16} {j k : Nat} (v : Word)

theorem blockP_eq_getP (h : base.val + k < 16) : s.blockP base k = s.getP ⟨base.val + k, h⟩ := dif_pos h

theorem setBlockP_eq_setP (h : base.val + k < 16) : s.setBlockP base k v = s.setP ⟨base.val + k, h⟩ v := dif_pos h

theorem blockP_setBlockP_same (h : base.val + k < 16) : (s.setBlockP base k v).blockP base k = v := by
  rw [setBlockP_eq_setP s v h, blockP_eq_getP _ h, getP_setP_same]

theorem blockP_setBlockP_ne (hj : base.val + j < 16) (hk : base.val + k < 16) (hne : j ≠ k) :
    (s.setBlockP base k v).blockP base j = s.blockP base j := by
  rw [setBlockP_eq_setP s v hk, blockP_eq_getP _ hj, blockP_eq_getP _ hj]
  exact getP_setP_ne s v fun e => hne (by simpa using e)

/-- The four registers from `P[pd]` on written with the edges and their mirror (R254). -/
def setEdges (s : State) (pd : Fin 16) (n i0 i1 : Nat) : State :=
  (((s.setBlockP pd 0 (BitVec.ofNat 32 i0)).setBlockP pd 1 (BitVec.ofNat 32 i1)).setBlockP pd 2
    (BitVec.ofNat 32 (mirror n i0 i1).1)).setBlockP pd 3 (BitVec.ofNat 32 (mirror n i0 i1).2)

variable (hpd : pd.val ≤ 12) (n i0 i1 : Nat)
include hpd

theorem setEdges_frame : ∃ P, s.setEdges pd n i0 i1 = { s with P := P } := by
  rw [setEdges, setBlockP_eq_setP _ _ (by omega), setBlockP_eq_setP _ _ (by omega), setBlockP_eq_setP _ _ (by omega),
    setBlockP_eq_setP _ _ (by omega)]
  exact ⟨_, rfl⟩

/-- Where `BPMASK` looks for the two edges. -/
theorem blockP_setEdges : (s.setEdges pd n i0 i1).blockP pd 0 = BitVec.ofNat 32 i0 ∧
    (s.setEdges pd n i0 i1).blockP pd 1 = BitVec.ofNat 32 i1 := by
  rw [setEdges, blockP_setBlockP_ne _ _ (by omega) (by omega) (by decide),
    blockP_setBlockP_ne _ _ (by omega) (by omega) (by decide),
    blockP_setBlockP_ne _ _ (by omega) (by omega) (by decide), blockP_setBlockP_same _ _ (by omega),
    blockP_setBlockP_ne _ _ (by omega) (by omega) (by decide),
    blockP_setBlockP_ne _ _ (by omega) (by omega) (by decide), blockP_setBlockP_same _ _ (by omega)]
  exact ⟨rfl, rfl⟩

end

end State

section
variable {s : State} {cb : Fin 4} {pd pn pfs pf0 pbw : Fin 16} {i0 i1 : Nat}

theorem execBpedge_of_ok (hpow : ispow2 (s.idx pn) = true) (hcap : s.idx pn ≤ s.cap)
    (hedge : bpedge (s.idx pn) (s.real pfs) (s.real pf0) (s.real pbw) = .ok (i0, i1)) :
    execBpedge pd pn pfs pf0 pbw s = done (s.setEdges pd (s.idx pn) i0 i1) := by
  simp only [execBpedge, requirePow2, finish_require_bind, decide_eq_true_eq, if_pos hpow, if_pos hcap, hedge]
  rfl

theorem execBpmask_of_ok (hpow : ispow2 (s.clen cb) = true) (h0 : (s.blockP pd 0).toNat = i0)
    (h1 : (s.blockP pd 1).toNat = i1) (hnyq : i1 < s.clen cb / 2) (hle : i0 ≤ i1) :
    execBpmask cb pd s = done (s.updCplxBuf cb (bpmask i0 i1 (s.cplxBuf cb))) := by
  simp only [execBpmask, requirePow2, finish_require_bind, decide_eq_true_eq, if_pos hpow, h0, h1, if_pos hnyq,
    if_pos hle]
  rfl

theorem execBpf_of_ok (hpow : ispow2 (s.clen cb) = true)
    (hedge : bpedge (s.clen cb) (s.real pfs) (s.real pf0) (s.real pbw) = .ok (i0, i1)) :
    execBpf cb pfs pf0 pbw s = done (s.updCplxBuf cb (bpmask i0 i1 (s.cplxBuf cb))) := by
  simp only [execBpf, requirePow2, finish_require_bind, if_pos hpow, hedge]
  rfl

end

/-! ### The sequences -/

@[simp] theorem State.clen_advance (s : State) (b : Fin 4) : s.advance.clen b = s.clen b := rfl

section
variable {s : State}

theorem bitrev_then_bfly {cb : Fin 4} (h : ispow2 (s.clen cb) = true) :
    ∃ t u, exec (.bitrev cb) s = .next t ∧ exec (.bfly cb .fwd) t = .next u ∧
      exec (.fft cb) s = .next { u with pc := s.pc + 1 } := by
  have hread : (s.updCplxBuf cb (bitrev (s.cplxBuf cb))).cplxBuf cb = bitrev (s.cplxBuf cb) :=
    State.cplxBuf_updCplxBuf_same _ _ _ (by simp)
  have hwrite := State.updCplxBuf_updCplxBuf s cb (bitrev (s.cplxBuf cb)) (fft s.cfg.twiddle (s.cplxBuf cb)) (by simp)
  refine ⟨_, _, finish_inPlace_of_ispow2 h, finish_inPlace_of_ispow2 (by simpa using h), ?_⟩
  rw [exec, execFft, finish_inPlace_of_ispow2 h, State.cplxBuf_advance, hread, ← hwrite]
  rfl

section
variable {cd rs : Fin 4} {ps : Fin 16} (hpow : ispow2 (s.idx ps) = true) (hcap : s.idx ps ≤ s.cap)
  (hl : s.rlen rs ≤ s.idx ps)
include hpow hcap hl

theorem lift_then_fft :
    ∃ t u, exec (.lift cd rs ps) s = .next t ∧ exec (.fft cd) t = .next u ∧
      exec (.rfft cd rs ps) s = .next { u with pc := s.pc + 1 } := by
  have hlen : (lift (s.realBuf rs) (s.idx ps)).length = s.idx ps := lift_length_of_le (by simpa using hl)
  have hwrite := State.setCplxBuf_updCplxBuf s cd (lift (s.realBuf rs) (s.idx ps))
    (rfft s.cfg.twiddle (s.realBuf rs) (s.idx ps)) (by simp)
  refine ⟨_, _, execLift_of_fits hpow hcap hl, finish_inPlace_of_ispow2 (by simpa [hlen] using hpow), ?_⟩
  rw [exec, execRfft_of_fits hpow hcap hl, State.cplxBuf_advance, State.cplxBuf_setCplxBuf_same, ← hwrite]
  rfl

theorem rfft_then_conjv :
    ∃ t u, exec (.rfft cd rs ps) s = .next t ∧ exec (.conjv cd) t = .next u ∧
      exec (.xcinit cd rs ps) s = .next { u with pc := s.pc + 1 } := by
  have hwrite := State.setCplxBuf_updCplxBuf s cd (rfft s.cfg.twiddle (s.realBuf rs) (s.idx ps))
    (conjv (rfft s.cfg.twiddle (s.realBuf rs) (s.idx ps))) (by simp)
  refine ⟨_, _, execRfft_of_fits hpow hcap hl, rfl, ?_⟩
  rw [exec, execXcinit_of_fits hpow hcap hl, State.cplxBuf_advance, State.cplxBuf_setCplxBuf_same, ← hwrite]
  rfl

/-- The one group of `RFFTG` goes to the destination and to the scratch bank. -/
theorem rfft_then_ccopy {cs : Fin 4} {pg : Fin 16} (hne : cd ≠ cs) (hg : s.idx pg = 1) :
    ∃ t u, exec (.rfft cd rs ps) s = .next t ∧ exec (.ccopy cs cd) t = .next u ∧
      exec (.rfftg cd rs cs ps pg) s = .next { u with pc := s.pc + 1 } := by
  have hx : (s.realBuf rs).length ≤ s.idx ps := by simpa using hl
  have hparts : (groupParts s.cfg.twiddle (s.realBuf rs) (s.idx ps) 1).flatten =
      rfft s.cfg.twiddle (s.realBuf rs) (s.idx ps) := by rw [groupParts_one hx, List.flatten_singleton]
  have hrfftg := execRfftg_of_fits (rs := rs) (pg := pg) hne hpow (hg ▸ rfl) (by simpa [hg] using hcap)
    (by simpa [hg] using hl)
  rw [hg, hparts, rfftg_one hx, ← State.setCplxBuf_comm _ _ _ hne] at hrfftg
  refine ⟨_, _, execRfft_of_fits hpow hcap hl, congrArg done (if_neg hne.symm), ?_⟩
  rw [exec, hrfftg, State.cplxBuf_advance, State.cplxBuf_setCplxBuf_same]
  rfl

end

theorem bpedge_then_bpmask {cb : Fin 4} {pd pn pfs pf0 pbw : Fin 16} {i0 i1 : Nat} (hcfg : s.cfg.wf = true)
    (hpd : pd.val ≤ 12) (hn : s.idx pn = s.clen cb) (hcap : s.clen cb ≤ s.cap) (hpow : ispow2 (s.clen cb) = true)
    (hedge : bpedge (s.clen cb) (s.getP pfs) (s.getP pf0) (s.getP pbw) = .ok (i0, i1)) (hle : i0 ≤ i1) :
    ∃ t u, exec (.bpedge pd pn pfs pf0 pbw) s = .next t ∧ exec (.bpmask cb pd) t = .next u ∧
      exec (.bpf cb pfs pf0 pbw) s = .next { u with P := s.P, pc := s.pc + 1 } := by
  have hnyq := bpedge_snd_lt hedge
  have hcap' : s.cap ≤ 0x01000000 := cap_le_of_wf hcfg
  obtain ⟨h0, h1⟩ := s.blockP_setEdges hpd (s.idx pn) i0 i1
  obtain ⟨P, hP⟩ := s.setEdges_frame hpd (s.idx pn) i0 i1
  have hclen : (s.setEdges pd (s.idx pn) i0 i1).clen cb = s.clen cb := by
    rw [hP]
    rfl
  have hword {i : Nat} (hi : i ≤ i1) : (BitVec.ofNat 32 i).toNat = i := by
    rw [BitVec.toNat_ofNat, Nat.mod_eq_of_lt (by omega)]
  have hbpmask := execBpmask_of_ok (s := (s.setEdges pd (s.idx pn) i0 i1).advance) (pd := pd) (cb := cb)
    (by simpa [hclen] using hpow) ((congrArg BitVec.toNat h0).trans (hword hle))
    ((congrArg BitVec.toNat h1).trans (hword le_rfl)) (by simpa [hclen] using hnyq) hle
  refine ⟨_, _, execBpedge_of_ok (hn ▸ hpow) (hn ▸ hcap) (hn ▸ hedge), hbpmask, ?_⟩
  rw [exec, execBpf_of_ok hpow hedge, hP]
  rfl

theorem decim_eq_realp {rd cs : Fin 4} {pstep pn : Fin 16} (hstep : s.idx pstep = 1) (hn : s.idx pn = s.clen cs)
    (hcap : s.clen cs ≤ s.cap) : exec (.decim rd cs pstep pn) s = exec (.realp rd cs) s := by
  have hdecim := execDecim_of_fits (cd := rd) (cs := cs) (by omega : s.idx pstep ≠ 0) (by omega : s.idx pn ≤ s.cap)
  rw [hstep, hn, ← State.cplxBuf_length, decim_one] at hdecim
  exact hdecim

end

/-- Settles O55: in each sequence the second command reads what the first one wrote and writes over it. -/
theorem commandSequences : Obligations.CommandSequences :=
  ⟨fun _ _ => bitrev_then_bfly,
    fun _ _ _ _ hpow hcap hl => ⟨lift_then_fft hpow hcap hl, rfft_then_conjv hpow hcap hl⟩,
    fun _ _ _ _ _ _ _ _ _ => bpedge_then_bpmask,
    fun _ _ _ _ _ => decim_eq_realp,
    fun _ _ _ _ hl => ⟨rfftg_one hl, by rw [groupParts_one hl, List.flatten_singleton]⟩,
    fun _ _ _ _ _ _ hne hg hpow hcap hl => rfft_then_ccopy hpow hcap hl hne hg⟩

end Sys2Proof.Machine
end

section
/-! The signal functions of 43_real_adapter, 44_bandpass and 47_resample sample by sample (R230, R232, R253, R300, R301). -/

namespace Sys2Proof.Machine

open Sys2Proof

/-! ### Samples of the pieces of a buffer -/

section
variable {x y : List Cplx} {i n : Nat}

theorem at_append_left (h : i < x.length) : at_ (x ++ y) i = at_ x i := List.getD_append x y Cplx.zero i h

theorem at_append_right (h : x.length ≤ i) : at_ (x ++ y) i = at_ y (i - x.length) :=
  List.getD_append_right x y Cplx.zero i h

theorem at_take (h : i < n) : at_ (x.take n) i = at_ x i := by
  rw [at_, at_, List.getD_eq_getElem?_getD, List.getD_eq_getElem?_getD, List.getElem?_take_of_lt h]

theorem at_drop (x : List Cplx) (n i : Nat) : at_ (x.drop n) i = at_ x (n + i) := by
  rw [at_, at_, List.getD_eq_getElem?_getD, List.getD_eq_getElem?_getD, List.getElem?_drop]

/-- A padding sample is `(+0, +0)`, inside the padding and beyond it. -/
theorem at_replicate_zero (n i : Nat) : at_ (List.replicate n Cplx.zero) i = Cplx.zero := by
  rw [at_, List.getD_eq_getElem?_getD, List.getElem?_replicate]
  split <;> rfl

/-- Sample `j` of block `k`, where blocks of one length `b` stand one after another. -/
theorem at_flatten {b j : Nat} (hj : j < b) {blocks : List (List Cplx)} (hb : ∀ z ∈ blocks, z.length = b) (k : Nat) :
    at_ blocks.flatten (k * b + j) = at_ (blocks.getD k []) j := by
  induction blocks generalizing k with
  | nil => rfl
  | cons z zs ih =>
    have hz : z.length = b := hb z List.mem_cons_self
    rw [List.flatten_cons]
    cases k with
    | zero => rw [Nat.zero_mul, Nat.zero_add, at_append_left (hz ▸ hj), List.getD_cons_zero]
    | succ k =>
      have hpos : (k + 1) * b + j = b + (k * b + j) := by ring
      rw [hpos, at_append_right (by omega), hz, Nat.add_sub_cancel_left, List.getD_cons_succ]
      exact ih (fun w hw => hb w (List.mem_cons_of_mem z hw)) k

end

/-! ### The four buffer functions -/

theorem at_lift (x : List F32) (size n : Nat) :
    at_ (lift x size) n = if n < x.length then ⟨x.getD n F32.zero, 0x00000000#32⟩ else ⟨0x00000000#32, 0x00000000#32⟩ := by
  split
  · next h =>
    rw [lift, at_append_left (by simpa using h), at_eq_getElem (by simpa using h), List.getElem_map,
      List.getD_eq_getElem _ _ h]
    rfl
  · next h =>
    rw [lift, at_append_right (by simpa using h), at_replicate_zero]
    rfl

theorem kept_iff {n i0 i1 k : Nat} :
    kept n i0 i1 k = true ↔ (i0 ≤ k ∧ k ≤ i1) ∨ (n - i1 - 1 ≤ k ∧ k ≤ n - i0 - 1) := by
  rw [kept, Bool.or_eq_true, decide_eq_true_eq, decide_eq_true_eq, mirror]

theorem at_bpmask {x : List Cplx} {k : Nat} (i0 i1 : Nat) (hk : k < x.length) : at_ (bpmask i0 i1 x) k =
    if (i0 ≤ k ∧ k ≤ i1) ∨ (x.length - i1 - 1 ≤ k ∧ k ≤ x.length - i0 - 1) then at_ x k
    else ⟨0x00000000#32, 0x00000000#32⟩ := by
  rw [bpmask, at_map_range _ hk]
  simp only [kept_iff]
  rfl

theorem zstuff_one (u : List Cplx) : zstuff u 1 = u := by
  rw [zstuff, Nat.one_mul, Nat.sub_self, List.replicate_zero, List.append_nil, List.take_append_drop]

/-- The lower half stands at the head, the upper half of the same size at the tail. -/
theorem at_zstuff {u : List Cplx} {t k : Nat} (ht : 1 ≤ t) (heven : 2 ∣ u.length) (hk : k < t * u.length) :
    at_ (zstuff u t) k =
    if k < u.length / 2 then at_ u k
    else if k < t * u.length - u.length / 2 then ⟨0x00000000#32, 0x00000000#32⟩
    else at_ u (k - (t * u.length - u.length)) := by
  have hle : u.length ≤ t * u.length := Nat.le_mul_of_pos_left _ ht
  have hhead : (u.take (u.length / 2)).length = u.length / 2 := by
    rw [List.length_take, min_eq_left (Nat.div_le_self _ _)]
  rw [zstuff, List.append_assoc]
  generalize t * u.length = size at hk hle ⊢
  split
  · next h => rw [at_append_left (hhead.symm ▸ h), at_take h]
  · next h =>
    rw [at_append_right (by omega), hhead]
    split
    · next hgap =>
      rw [at_append_left (by rw [List.length_replicate]; omega), at_replicate_zero]
      rfl
    · next hgap =>
      rw [at_append_right (by rw [List.length_replicate]; omega), List.length_replicate, at_drop]
      congr 1
      omega

theorem two_dvd_of_ispow2 {n : Nat} (h : ispow2 n = true) (h2 : 2 ≤ n) : 2 ∣ n := by
  have hlog : 1 ≤ Nat.log2 n := (Nat.le_log2 (by omega)).mpr h2
  rw [← ispow2_iff.mp h]
  exact dvd_pow_self 2 (Nat.ne_zero_of_lt hlog)

theorem getD_decim (w : List Cplx) (step : Nat) {n n1 : Nat} (hn : n < n1) :
    (decim w step n1).getD n F32.zero = if n * step < w.length then (at_ w (n * step)).re else 0x00000000#32 := by
  rw [List.getD_eq_getElem _ _ (by simpa using hn)]
  simp only [decim, List.getElem_map, List.getElem_range]
  rfl

/-- Settles O43, each function by the samples of its pieces; the halves of `zstuff` are equal since the length is even. -/
theorem sampleFormulas : Obligations.SampleFormulas :=
  ⟨fun x size hx => ⟨lift_length_of_le hx, fun n _ => at_lift x size n⟩,
    fun x i0 i1 _ _ => ⟨bpmask_length i0 i1 x, fun _ => at_bpmask i0 i1⟩,
    fun u _ hu h2 ht => ⟨zstuff_length u ht, zstuff_one u, fun _ => at_zstuff ht (two_dvd_of_ispow2 hu h2)⟩,
    fun w step n1 _ => ⟨decim_length w step n1, fun _ => getD_decim w step⟩⟩

/-! ### The grouped transform -/

section
variable {gen : Config.TwiddleGen} {x : List F32} {b g : Nat}

/-- Sample `j` of block `i` lies in the buffer of the `g` blocks. -/
theorem blockIndex_lt {i j : Nat} (hi : i < g) (hj : j < b) : i * b + j < b * g := by
  rw [Nat.add_comm, Nat.mul_comm i]
  exact Nat.add_mul_lt_mul_of_lt_of_lt hj hi

theorem part_length (gen : Config.TwiddleGen) (x : List F32) (b g k : Nat) : (part gen x b g k).length = b := by
  simp [part, subBlock]

theorem getD_groupParts {k : Nat} (hk : k < g) : (groupParts gen x b g).getD k [] = part gen x b g k := by
  rw [List.getD_eq_getElem _ _ (by simpa [groupParts] using hk)]
  simp [groupParts]

/-- The spectra one after another: sample `j` of `part_k` is at `k*B + j` (R236). -/
theorem at_flatten_groupParts {k j : Nat} (hk : k < g) (hj : j < b) :
    at_ (groupParts gen x b g).flatten (k * b + j) = at_ (part gen x b g k) j := by
  have hlen : ∀ z ∈ groupParts gen x b g, z.length = b := by
    intro z hz
    obtain ⟨i, -, rfl⟩ := List.mem_map.mp hz
    exact part_length gen x b g i
  rw [at_flatten hj hlen, getD_groupParts hk]

theorem at_rfftg {i j : Nat} (hi : i < g) (hj : j < b) : at_ (rfftg gen x b g) (i * b + j) =
    (List.range' 1 (g - 1)).foldl
      (fun acc k => cadd acc (cmul (TW gen .fwd (b * g) ((i * b + j) * k % (b * g))) (at_ (part gen x b g k) j)))
      (at_ (part gen x b g 0) j) := by
  have hmod : (i * b + j) % b = j := by rw [Nat.mul_add_mod_self_right, Nat.mod_eq_of_lt hj]
  rw [rfftg, at_map_range _ (blockIndex_lt hi hj), recombine, hmod, getD_groupParts (by omega),
    List.range'_eq_map_range, List.foldl_map]
  refine List.foldl_ext _ _ _ fun acc k hk => ?_
  have hk : k + 1 < g := by
    have := List.mem_range.mp hk
    omega
  rw [getD_groupParts hk, Nat.add_comm 1 k]

end

end Sys2Proof.Machine
end

section
/-! The commands of 43_real_adapter (R234 to R237): what each leaves when its checks hold, and the first check that
fails. -/

namespace Sys2Proof.Machine

open Sys2Proof

section
variable {s : State} {cd rs cs : Fin 4} {pb pg : Fin 16}

/-- A command that sets a complex bank to `n` samples. -/
theorem done_setCplxBuf_of_length (s : State) (b : Fin 4) {xs : List Cplx} {n : Nat} (h : xs.length = n) :
    ∃ B : Bank, done (s.setCplxBuf b xs) = .next { s with CB := s.CB.set b B, pc := s.pc + 1 } ∧
      B.len = n ∧ B.holdsCplx b xs := by
  obtain ⟨B, hdone, hB⟩ := done_setCplxBuf s b xs
  exact ⟨B, hdone, hB.1.trans h, hB⟩

/-- A command that sets two complex banks one after the other, to samples read before either. -/
theorem done_setCplxBuf_setCplxBuf (s : State) (c d : Fin 4) (ys xs : List Cplx) :
    ∃ B C : Bank, done ((s.setCplxBuf c ys).setCplxBuf d xs) =
        .next { s with CB := (s.CB.set c C).set d B, pc := s.pc + 1 } ∧ B.holdsCplx d xs ∧ C.holdsCplx c ys :=
  ⟨_, _, rfl, Bank.holdsCplx_fresh _ d xs, Bank.holdsCplx_fresh _ c ys⟩

/-- The check of `requireLift` that fails first is the one that raises. -/
theorem finish_requireLift_bind_of_not {size l : Nat} (h : ¬ (ispow2 size = true ∧ size ≤ s.cap ∧ l ≤ size))
    (k : Unit → Except Raise State) : finish s (requireLift s size l >>= k) =
      .next (if ispow2 size = false then s.takeFault .notPow2 size
        else if s.cap < size then s.takeFault .bounds size else s.takeFault .bounds l) := by
  simp only [requireLift, bind_assoc, finish_require_bind, decide_eq_true_eq]
  by_cases hpow : ispow2 size = false
  · simp [hpow]
  by_cases hcap : s.cap < size
  · simp [hpow, hcap]
  have hl : ¬ l ≤ size := fun hl => h ⟨Bool.of_not_eq_false hpow, not_lt.mp hcap, hl⟩
  simp [hpow, hcap, hl]

/-- The check of `RFFTG` that fails first is the one that raises (R236). -/
theorem execRfftg_of_not (h : ¬ (cd ≠ cs ∧ ispow2 (s.idx pb) = true ∧ ispow2 (s.idx pg) = true ∧
      s.idx pb * s.idx pg ≤ s.cap ∧ s.rlen rs ≤ s.idx pb * s.idx pg)) :
    execRfftg cd rs cs pb pg s =
      .next (if cd = cs then s.takeFault .aliased cd.val
        else if ispow2 (s.idx pb) = false then s.takeFault .notPow2 (s.idx pb)
        else if ispow2 (s.idx pg) = false then s.takeFault .notPow2 (s.idx pg)
        else if s.cap < s.idx pb * s.idx pg then s.takeFault .bounds (s.idx pb * s.idx pg)
        else s.takeFault .bounds (s.rlen rs)) := by
  simp only [execRfftg, requireDistinct, finish_require_bind, decide_eq_true_eq]
  by_cases hne : cd = cs
  · simp [hne]
  by_cases hb : ispow2 (s.idx pb) = false
  · simp [hne, hb]
  by_cases hg : ispow2 (s.idx pg) = false
  · simp [hne, hb, hg]
  by_cases hcap : s.cap < s.idx pb * s.idx pg
  · simp [hne, hb, hg, hcap]
  have hl : ¬ s.rlen rs ≤ s.idx pb * s.idx pg := fun hl =>
    h ⟨hne, Bool.of_not_eq_false hb, Bool.of_not_eq_false hg, not_lt.mp hcap, hl⟩
  simp [hne, hb, hg, hcap, hl]

end

/-- Settles O33, by the three checks that `LIFT` and `RFFT` share; `REALP` makes none. -/
theorem liftAndTransform : Obligations.LiftAndTransform := by
  refine ⟨fun cd rs ps s => ⟨rfl, rfl, fun hpow hcap hl => ?_, fun h => ⟨?_, ?_⟩⟩,
    fun rd cs s => ⟨rfl, done_setRealBuf s rd _⟩⟩
  · have hlen : (lift (s.realBuf rs) (s.idx ps)).length = s.idx ps := lift_length_of_le (by simpa using hl)
    rw [exec, exec, execLift_of_fits hpow hcap hl, execRfft_of_fits hpow hcap hl]
    exact ⟨done_setCplxBuf_of_length s cd hlen, done_setCplxBuf_of_length s cd (by rw [rfft, fft_length, hlen])⟩
  · exact finish_requireLift_bind_of_not h _
  · exact finish_requireLift_bind_of_not h _

/-- Settles O34: the sub-blocks by definition, the recombination term by term, and the command by its five checks. -/
theorem groupedTransform : Obligations.GroupedTransform := by
  refine ⟨fun _ _ _ _ _ _ _ _ => rfl, fun _ _ _ _ _ _ _ _ => at_rfftg,
    fun cd rs cs pb pg s => ⟨rfl, fun hne hb hg hcap hl => ?_, execRfftg_of_not⟩⟩
  rw [exec, execRfftg_of_fits hne hb hg hcap hl]
  obtain ⟨B, C, hdone, hB, hC⟩ := done_setCplxBuf_setCplxBuf s cs cd
    (groupParts s.cfg.twiddle (s.realBuf rs) (s.idx pb) (s.idx pg)).flatten
    (rfftg s.cfg.twiddle (s.realBuf rs) (s.idx pb) (s.idx pg))
  obtain ⟨hlen, hwords⟩ := hC
  rw [groupParts_length, Nat.mul_comm] at hlen hwords
  refine ⟨B, C, hdone, hB.1.trans (rfftg_length _ _ _ _), hB, hlen, fun k j hk hj => ?_⟩
  rw [← at_flatten_groupParts hk hj]
  exact hwords _ (blockIndex_lt hk hj)

end Sys2Proof.Machine
end

section
/-! Rounding keeps order (00_scope R12): of two numbers the greater one does not round to the lesser value, nor do two
equal ones round to different values. So each operation of the edge computation (44_bandpass R251) keeps order or
reverses it, as the exact operation does. -/

namespace Sys2Proof.F32

/-! ## Rounding to nearest -/

theorem add_le_of_abs_sub_le {a b r : ℝ} (hab : a < b) (h : |b - r| ≤ |a - r|) : a + b ≤ 2 * r := by
  have hsq := sq_le_sq.mpr h
  nlinarith

theorem le_add_of_abs_sub_le {a b r : ℝ} (hab : a < b) (h : |a - r| ≤ |b - r|) : 2 * r ≤ a + b := by
  have hsq := sq_le_sq.mpr h
  nlinarith

/-- Every place strictly between the infinities is that of a finite pattern. -/
theorem exists_isFinite_rank {k : ℤ} (hlo : -(infMag : ℤ) < k) (hhi : k < infMag) :
    ∃ w : F32, isFinite w = true ∧ rank w = k := by
  have hlt : k.natAbs < infMag := by omega
  have hmag : magBits (pack (decide (k < 0)) k.natAbs) = k.natAbs := magBits_pack _ (hlt.trans (by decide))
  have hsign : sign (pack (decide (k < 0)) k.natAbs) = decide (k < 0) := sign_pack _ (hlt.trans (by decide))
  refine ⟨_, isFinite_iff.mpr (hmag.symm ▸ hlt), ?_⟩
  simp only [rank, hsign, hmag, decide_eq_true_eq]
  split <;> omega

/-- The last bit of the significand is the last bit of the pattern. -/
theorem two_dvd_rank_iff {x : F32} : 2 ∣ rank x ↔ mant x % 2 = 0 := by
  have hmag := magBits_eq x
  rw [rank]
  split <;> omega

/-- Were the greater number nearest to the lesser value, both numbers would be the one halfway between two values with
even significands, and another value would be nearer. -/
theorem IsNearest.rank_le {r q : ℝ} {z w : F32} (hz : IsNearest r z) (hw : IsNearest q w) (h : r ≤ q) :
    rank z ≤ rank w := by
  by_contra hlt
  rw [not_le] at hlt
  obtain ⟨hzfin, hznear⟩ := hz
  obtain ⟨hwfin, hwnear⟩ := hw
  have hval : (value w : ℝ) < value z := by exact_mod_cast value_lt_of_rank_lt hlt
  have hr := add_le_of_abs_sub_le hval (hznear w hwfin).1
  have hq := le_add_of_abs_sub_le hval (hwnear z hzfin).1
  obtain rfl : r = q := by linarith
  have htie : |(value z : ℝ) - r| = |(value w : ℝ) - r| := le_antisymm (hznear w hwfin).1 (hwnear z hzfin).1
  have hne : value w ≠ value z := by exact_mod_cast hval.ne
  have hzeven := two_dvd_rank_iff.mpr (((hznear w hwfin).2 htie).resolve_left hne)
  have hweven := two_dvd_rank_iff.mpr (((hwnear z hzfin).2 htie.symm).resolve_left hne.symm)
  obtain ⟨-, hzhi, -⟩ := rank_mem (isNaN_of_isFinite hzfin)
  obtain ⟨hwlo, -, -⟩ := rank_mem (isNaN_of_isFinite hwfin)
  obtain ⟨v, hvfin, hv⟩ := exists_isFinite_rank (k := rank w + 1) (by omega) (by omega)
  have hwv : (value w : ℝ) < value v := by exact_mod_cast value_lt_of_rank_lt (by omega)
  have hvz : (value v : ℝ) < value z := by exact_mod_cast value_lt_of_rank_lt (by omega)
  have hfar := add_le_of_abs_sub_le hvz (hznear v hvfin).1
  linarith

theorem IsRounded.isNaN_eq_false {r : ℝ} {z : F32} (h : IsRounded r z) : isNaN z = false := by
  obtain ⟨hfin, hpos, hneg⟩ := h
  rcases lt_or_ge |r| (2 ^ 128 - 2 ^ 103) with hr | hr
  · exact isNaN_of_isFinite (hfin hr).1
  rcases le_abs'.mp hr with hr | hr
  · rw [hneg hr]
    decide
  · rw [hpos hr]
    decide

/-- Rounding is monotone, overflow included: the infinities are at the ends of the order. -/
theorem IsRounded.value_le {r q : ℝ} {z w : F32} (hz : IsRounded r z) (hw : IsRounded q w) (h : r ≤ q) :
    value z ≤ value w := by
  rw [← rank_le_iff]
  obtain ⟨-, hzhi, -⟩ := rank_mem hz.isNaN_eq_false
  obtain ⟨hwlo, -⟩ := rank_mem hw.isNaN_eq_false
  by_cases hr : r ≤ -(2 ^ 128 - 2 ^ 103)
  · rw [hz.2.2 hr]
    exact hwlo
  by_cases hq : 2 ^ 128 - 2 ^ 103 ≤ q
  · rw [hw.2.1 hq]
    exact hzhi
  · rw [not_le] at hr hq
    exact (hz.1 (abs_lt.mpr ⟨hr, h.trans_lt hq⟩)).rank_le (hw.1 (abs_lt.mpr ⟨hr.trans_le h, hq⟩)) h

/-! ## Signs, comparisons and their values -/

theorem value_nonneg {x : F32} (h : sign x = false) : 0 ≤ value x := by
  rw [value_eq_sign_abs, h]
  exact abs_nonneg _

theorem value_nonpos {x : F32} (h : sign x = true) : value x ≤ 0 := by
  rw [value_eq_sign_abs, h]
  exact neg_nonpos.mpr (abs_nonneg _)

theorem sign_of_rank_pos {x : F32} (h : 0 < rank x) : sign x = false := by
  rw [← Bool.not_eq_true]
  intro hs
  rw [rank, if_pos hs] at h
  omega

theorem numbers_of_fle {x y : F32} (h : fle x y = true) : isNaN x = false ∧ isNaN y = false ∧ rank x ≤ rank y := by
  simpa [fle, and_assoc] using h

theorem sign_u2f (n : ℕ) : sign (u2f n) = false := sign_pack_roundMag _ _ _

/-! ## Operands of a finite result -/

section
variable {x y : F32}

theorem isFinite_of_not_isNaN_of_not_isInf (hn : isNaN x = false) (hi : isInf x = false) : isFinite x = true := by
  rw [isNaN_eq, decide_eq_false_iff_not] at hn
  rw [isInf_eq, decide_eq_false_iff_not] at hi
  rw [isFinite_iff]
  omega

theorem isFinite_pack_infMag (s : Bool) : isFinite (pack s infMag) = false := by
  revert s
  decide

theorem isFinite_operands_of_addNumber {nan : F32} (hnan : isNaN nan = true) (hx : isNaN x = false)
    (hy : isNaN y = false) (h : isFinite (addNumber nan x y) = true) : isFinite x = true ∧ isFinite y = true := by
  have hxi : isInf x = false := by
    rw [← Bool.not_eq_true]
    intro hxi
    rw [addNumber, if_pos hxi] at h
    split at h
    · simp [isNaN_of_isFinite h] at hnan
    · simp [isInf_of_isFinite h] at hxi
  have hyi : isInf y = false := by
    rw [← Bool.not_eq_true]
    intro hyi
    rw [addNumber, hxi, if_neg (by simp), if_pos hyi] at h
    simp [isInf_of_isFinite h] at hyi
  exact ⟨isFinite_of_not_isNaN_of_not_isInf hx hxi, isFinite_of_not_isNaN_of_not_isInf hy hyi⟩

theorem isFinite_operands_of_fsub (h : isFinite (fsub x y) = true) : isFinite x = true ∧ isFinite y = true := by
  obtain ⟨hx, hy⟩ := isNaN_operands_of_result isNaN_fsub (isNaN_of_isFinite h)
  rw [fsub, hx, hy] at h
  have hneg := isFinite_operands_of_addNumber (isNaN_nanOf _ _ _) hx (by simpa using hy) h
  rwa [isFinite_fneg] at hneg

theorem isFinite_operands_of_fmul (h : isFinite (fmul x y) = true) : isFinite x = true ∧ isFinite y = true := by
  obtain ⟨hx, hy⟩ := isNaN_operands_of_result isNaN_fmul (isNaN_of_isFinite h)
  have hinf : (isInf x || isInf y) = false := by
    rw [← Bool.not_eq_true]
    intro hinf
    rw [fmul, hx, hy, hinf, if_neg (by simp), if_pos rfl] at h
    split at h
    · simpa using isNaN_of_isFinite h
    · simp [isFinite_pack_infMag] at h
  rw [Bool.or_eq_false_iff] at hinf
  exact ⟨isFinite_of_not_isNaN_of_not_isInf hx hinf.1, isFinite_of_not_isNaN_of_not_isInf hy hinf.2⟩

/-- A quotient by an infinity is a zero or a NaN. -/
theorem fdiv_isInf_right (hy : isInf y = true) : isNaN (fdiv x y) = true ∨ feq0 (fdiv x y) = true := by
  by_cases hx : isFinite x = true
  · right
    rw [fdiv_isFinite_isInf hy hx, feq0_iff_magBits, magBits_pack _ (by decide)]
  · left
    cases hn : isNaN x
    · cases hi : isInf x
      · exact absurd (isFinite_of_not_isNaN_of_not_isInf hn hi) hx
      · exact isNaN_fdiv_isInf_isInf hi hy
    · exact isNaN_fdiv (.inl hn)

theorem isFinite_operands_of_fdiv (hyi : isInf y = false) (h : isFinite (fdiv x y) = true) :
    isFinite x = true ∧ isFinite y = true ∧ feq0 y = false := by
  obtain ⟨hx, hy⟩ := isNaN_operands_of_result isNaN_fdiv (isNaN_of_isFinite h)
  have hyfin := isFinite_of_not_isNaN_of_not_isInf hy hyi
  have hxfin : isFinite x = true := by
    refine isFinite_of_not_isNaN_of_not_isInf hx ?_
    rw [← Bool.not_eq_true]
    intro hxi
    rw [fdiv_isInf_isFinite hxi hyfin] at h
    simp [isFinite_pack_infMag] at h
  refine ⟨hxfin, hyfin, ?_⟩
  rw [← Bool.not_eq_true]
  intro hy0
  cases hx0 : feq0 x
  · rw [fdiv_isFinite_zero hxfin hx0 hy0] at h
    simp [isFinite_pack_infMag] at h
  · simpa [isNaN_fdiv_zero_zero hx0 hy0] using isNaN_of_isFinite h

/-- The sign of a quotient, of an infinite one too. -/
theorem sign_fdiv_of_isFinite_right (hx : isNaN x = false) (hy : isFinite y = true) (h0 : feq0 y = false) :
    sign (fdiv x y) = (sign x != sign y) := by
  cases hi : isInf x
  · exact sign_fdiv (isFinite_of_not_isNaN_of_not_isInf hx hi) hy h0
  · rw [fdiv_isInf_isFinite hi hy, sign_pack _ (by decide)]

end

end Sys2Proof.F32
end

section
/-! The edges of a passband (44_bandpass R250, R251): the checks of `bpedge` in their order, and the order of the edges.
A passed width test gives the bandwidth and the sample rate one sign, so the exact lower edge is at most the exact upper
one, and every rounded step keeps that. -/

namespace Sys2Proof.Machine

open Sys2Proof F32

/-! ### The checks -/

/-- The bin position of a frequency, multiplied by `N` first (R251). -/
def binPosition (n : Nat) (fs f : F32) : F32 := fdiv (fmul f (u2f n)) fs

/-- The lower edge before truncation (R251). -/
def lowerEdge (n : Nat) (fs f0 bw : F32) : F32 := binPosition n fs (fsub f0 (fmul bw 0x3F000000#32))

/-- The upper edge before truncation (R251). -/
def upperEdge (n : Nat) (fs f0 bw : F32) : F32 := binPosition n fs (fadd f0 (fmul bw 0x3F000000#32))

section
variable {n : Nat} {fs f0 bw f g x : F32} {i0 i1 k : Nat}

/-- The edge computation with its checks in their order. -/
theorem bpedge_eq (n : Nat) (fs f0 bw : F32) : bpedge n fs f0 bw =
    if fge (binPosition n fs bw) 0x40000000#32 = false then .error (.bpWidth, (binPosition n fs bw).toNat)
    else if fge (lowerEdge n fs f0 bw) 0x00000000#32 = false then .error (.param, (lowerEdge n fs f0 bw).toNat)
    else match f2iTrunc (upperEdge n fs f0 bw), f2iTrunc (lowerEdge n fs f0 bw) with
      | none, _ => .error (.param, (upperEdge n fs f0 bw).toNat)
      | some _, none => .error (.param, (lowerEdge n fs f0 bw).toNat)
      | some i1, some i0 =>
        if n / 2 ≤ i1.toNat then .error (.bpNyquist, i1.toNat) else .ok (i0.toNat, i1.toNat) := by
  have hchecks : bpedge n fs f0 bw =
      (require (fge (binPosition n fs bw) 0x40000000#32) .bpWidth (binPosition n fs bw).toNat >>= fun _ =>
        require (fge (lowerEdge n fs f0 bw) 0x00000000#32) .param (lowerEdge n fs f0 bw).toNat >>= fun _ =>
        binIndex (upperEdge n fs f0 bw) >>= fun i1 => binIndex (lowerEdge n fs f0 bw) >>= fun i0 =>
        require (decide (i1 < n / 2)) .bpNyquist i1 >>= fun _ => pure (i0, i1)) := rfl
  simp only [hchecks, require_bind, decide_eq_true_eq, ← not_lt, ite_not, ← Bool.not_eq_true]
  refine if_congr Iff.rfl (if_congr Iff.rfl ?_ rfl) rfl
  rw [binIndex, binIndex]
  cases f2iTrunc (upperEdge n fs f0 bw) with
  | none => rfl
  | some i1 => cases f2iTrunc (lowerEdge n fs f0 bw) <;> rfl

theorem binIndex_eq_ok : binIndex x = .ok k ↔ ∃ i, f2iTrunc x = some i ∧ i.toNat = k := by
  unfold binIndex
  cases f2iTrunc x <;> simp

/-- What the edge computation has found when it answers. -/
theorem bpedge_eq_ok (h : bpedge n fs f0 bw = .ok (i0, i1)) :
    fge (binPosition n fs bw) 0x40000000#32 = true ∧ fge (lowerEdge n fs f0 bw) 0x00000000#32 = true ∧
      binIndex (lowerEdge n fs f0 bw) = .ok i0 ∧ binIndex (upperEdge n fs f0 bw) = .ok i1 ∧ i1 < n / 2 := by
  simp only [bpedge, bind_eq_ok, pure_eq_ok, require_eq_ok, decide_eq_true_eq, Prod.mk.injEq] at h
  obtain ⟨-, hwb, -, hlo, _, hi1, _, hi0, -, hlt, rfl, rfl⟩ := h
  exact ⟨hwb, hlo, hi0, hi1, hlt⟩

/-! ### The order of the edges -/

theorem isFinite_of_binIndex (h : binIndex x = .ok k) : isFinite x = true := by
  obtain ⟨i, hi, -⟩ := binIndex_eq_ok.mp h
  rw [← Bool.not_eq_false]
  intro hx
  simp [f2iTrunc_eq_none_iff.mpr hx] at hi

theorem binIndex_eq_floor (hx : 0 ≤ value x) (h : binIndex x = .ok k) : k = ⌊value x⌋₊ := by
  obtain ⟨i, hi, rfl⟩ := binIndex_eq_ok.mp h
  rw [f2iTrunc_eq_floor (isFinite_of_binIndex h), abs_of_nonneg hx, Option.some.injEq, signed] at hi
  rw [← hi]
  split
  next hs =>
    have hzero : value x = 0 := le_antisymm (value_nonpos hs) hx
    simp [hzero]
  next => exact Int.toNat_natCast _

theorem rank_pos_of_width (hwb : fge (binPosition n fs bw) 0x40000000#32 = true) :
    isNaN (binPosition n fs bw) = false ∧ 0 < rank (binPosition n fs bw) := by
  obtain ⟨-, hnum, hrank⟩ := numbers_of_fle hwb
  have htwo : 0 < rank 0x40000000#32 := by decide
  exact ⟨hnum, htwo.trans_le hrank⟩

/-- A passed width test shuts out an infinite sample rate, by which every finite number is a zero. -/
theorem isInf_eq_false_of_width (hwb : fge (binPosition n fs bw) 0x40000000#32 = true) : isInf fs = false := by
  obtain ⟨hnum, hrank⟩ := rank_pos_of_width hwb
  rw [← Bool.not_eq_true]
  intro hinf
  rcases fdiv_isInf_right hinf with h | h
  · exact absurd (h.symm.trans hnum) (by decide)
  · exact hrank.ne' (rank_of_feq0 h)

theorem isFinite_operands_of_binPosition (hfs : isInf fs = false) (h : isFinite (binPosition n fs f) = true) :
    isFinite f = true ∧ isFinite (fmul f (u2f n)) = true ∧ isFinite fs = true ∧ feq0 fs = false := by
  obtain ⟨hmul, hrest⟩ := isFinite_operands_of_fdiv hfs h
  exact ⟨(isFinite_operands_of_fmul hmul).1, hmul, hrest⟩

/-- A passed width test means that the bandwidth and the sample rate have the same sign (R251). -/
theorem sign_eq_of_width (hn : n ≤ 2 ^ 24) (hbw : isFinite bw = true) (hfs : isFinite fs = true)
    (h0 : feq0 fs = false) (hwb : fge (binPosition n fs bw) 0x40000000#32 = true) : sign bw = sign fs := by
  obtain ⟨hnum, hrank⟩ := rank_pos_of_width hwb
  have hpos := sign_of_rank_pos hrank
  have hmul := (isNaN_operands_of_result isNaN_fdiv hnum).1
  rw [binPosition, sign_fdiv_of_isFinite_right hmul hfs h0, sign_fmul hbw (u2f_exact hn).1, sign_u2f] at hpos
  simpa using hpos

theorem value_fmul_u2f_le (hn : n ≤ 2 ^ 24) (hf : isFinite f = true) (hg : isFinite g = true)
    (h : value f ≤ value g) : value (fmul f (u2f n)) ≤ value (fmul g (u2f n)) := by
  obtain ⟨hfin, hval⟩ := u2f_exact hn
  refine (fmul_isRounded hf hfin).value_le (fmul_isRounded hg hfin) ?_
  rw [hval]
  gcongr

/-- The bin position rises with the frequency for a positive sample rate and falls for a negative one. -/
theorem value_binPosition_le (hn : n ≤ 2 ^ 24) (hinf : isInf fs = false)
    (hf : isFinite (binPosition n fs f) = true) (hg : isFinite (binPosition n fs g) = true)
    (h : 0 ≤ value fs ∧ value f ≤ value g ∨ value fs ≤ 0 ∧ value g ≤ value f) :
    value (binPosition n fs f) ≤ value (binPosition n fs g) := by
  obtain ⟨hffin, hfmul, hfs, h0⟩ := isFinite_operands_of_binPosition hinf hf
  obtain ⟨hgfin, hgmul, -, -⟩ := isFinite_operands_of_binPosition hinf hg
  refine (fdiv_isRounded hfmul hfs h0).value_le (fdiv_isRounded hgmul hfs h0) ?_
  rcases h with ⟨hpos, hle⟩ | ⟨hneg, hle⟩
  · have hmul := value_fmul_u2f_le hn hffin hgfin hle
    exact div_le_div_of_nonneg_right (by exact_mod_cast hmul) (by exact_mod_cast hpos)
  · have hmul := value_fmul_u2f_le hn hgfin hffin hle
    exact div_le_div_of_nonpos_of_le (by exact_mod_cast hneg) (by exact_mod_cast hmul)

theorem value_lowerEdge_le_upperEdge (hn : n ≤ 2 ^ 24) (hwb : fge (binPosition n fs bw) 0x40000000#32 = true)
    (hlo : isFinite (lowerEdge n fs f0 bw) = true) (hhi : isFinite (upperEdge n fs f0 bw) = true) :
    value (lowerEdge n fs f0 bw) ≤ value (upperEdge n fs f0 bw) := by
  have hinf := isInf_eq_false_of_width hwb
  obtain ⟨hsub, -, hfs, h0⟩ := isFinite_operands_of_binPosition hinf hlo
  obtain ⟨hf0, hhalf⟩ := isFinite_operands_of_fsub hsub
  obtain ⟨hbw, hfactor⟩ := isFinite_operands_of_fmul hhalf
  have hsign : sign (fmul bw 0x3F000000#32) = sign fs := by
    rw [sign_fmul hbw hfactor, ← sign_eq_of_width hn hbw hfs h0 hwb]
    exact Bool.xor_false _
  obtain ⟨hadd, hsub, -⟩ := roundedOnce.1 f0 _ hf0 hhalf
  refine value_binPosition_le hn hinf hlo hhi ?_
  cases hs : sign fs
  · have hnonneg : (0 : ℝ) ≤ value (fmul bw 0x3F000000#32) := by exact_mod_cast value_nonneg (hsign.trans hs)
    exact .inl ⟨value_nonneg hs, hsub.value_le hadd (by linarith)⟩
  · have hnonpos : (value (fmul bw 0x3F000000#32) : ℝ) ≤ 0 := by exact_mod_cast value_nonpos (hsign.trans hs)
    exact .inr ⟨value_nonpos hs, hadd.value_le hsub (by linarith)⟩

theorem bpedge_fst_le_snd (hn : n ≤ 2 ^ 24) (h : bpedge n fs f0 bw = .ok (i0, i1)) : i0 ≤ i1 := by
  obtain ⟨hwb, hlo, hi0, hi1, -⟩ := bpedge_eq_ok h
  have hle := value_lowerEdge_le_upperEdge hn hwb (isFinite_of_binIndex hi0) (isFinite_of_binIndex hi1)
  have hnonneg : 0 ≤ value (lowerEdge n fs f0 bw) := by
    have hzero : value 0x00000000#32 = 0 := value_eq_zero_iff.mpr (by decide)
    exact hzero ▸ rank_le_iff.mp (numbers_of_fle hlo).2.2
  rw [binIndex_eq_floor hnonneg hi0, binIndex_eq_floor (hnonneg.trans hle) hi1]
  exact Nat.floor_mono hle

end

/-- Settles O36: the lower edge is at most the upper one, and the mirror turns the order round. -/
theorem bandEdgesOrdered : Obligations.BandEdgesOrdered := by
  intro n fs f0 bw i0 i1 _ hn h
  have hle := bpedge_fst_le_snd hn h
  have hlt := bpedge_snd_lt h
  rw [mirror]
  omega

end Sys2Proof.Machine
end

section
/-! The commands of 44_bandpass (R253 to R257): the edges into registers, the mask, and the whole filter. -/

namespace Sys2Proof.Machine

open Sys2Proof

/-! ### `BPEDGE` -/

section
variable {base pd r : Fin 16} {k : Nat}

theorem State.getP_setBlockP (s : State) (v : Word) (h : base.val + k < 16) :
    (s.setBlockP base k v).getP r = if r.val = base.val + k then v else s.getP r := by
  rw [setBlockP_eq_setP s v h]
  split
  · next hr =>
    obtain rfl : r = ⟨base.val + k, h⟩ := Fin.ext hr
    exact getP_setP_same s _ v
  · next hr => exact getP_setP_ne s v fun e => hr (congrArg Fin.val e)

theorem State.getP_setEdges (s : State) (hpd : pd.val ≤ 12) (n i0 i1 : Nat) : (s.setEdges pd n i0 i1).getP r =
    if r.val = pd.val then BitVec.ofNat 32 i0
    else if r.val = pd.val + 1 then BitVec.ofNat 32 i1
    else if r.val = pd.val + 2 then BitVec.ofNat 32 (n - i1 - 1)
    else if r.val = pd.val + 3 then BitVec.ofNat 32 (n - i0 - 1)
    else s.getP r := by
  rw [setEdges, getP_setBlockP _ _ (by omega), getP_setBlockP _ _ (by omega), getP_setBlockP _ _ (by omega),
    getP_setBlockP _ _ (by omega), mirror]
  grind

end

section
variable {s : State} {cb : Fin 4} {pd pn pi pfs pf0 pbw : Fin 16} {c : Cause} {v : Nat}

theorem execBpedge_of_not_ispow2 (hpow : ispow2 (s.idx pn) = false) :
    execBpedge pd pn pfs pf0 pbw s = .next (s.takeFault .notPow2 (s.idx pn)) := by
  simp only [execBpedge, requirePow2, finish_require_bind, hpow]
  rfl

theorem execBpedge_of_cap_lt (hpow : ispow2 (s.idx pn) = true) (hcap : s.cap < s.idx pn) :
    execBpedge pd pn pfs pf0 pbw s = .next (s.takeFault .bounds (s.idx pn)) := by
  simp only [execBpedge, requirePow2, finish_require_bind, decide_eq_true_eq, if_pos hpow, if_neg (not_le.mpr hcap)]

theorem execBpedge_of_error (hpow : ispow2 (s.idx pn) = true) (hcap : s.idx pn ≤ s.cap)
    (hedge : bpedge (s.idx pn) (s.real pfs) (s.real pf0) (s.real pbw) = .error (c, v)) :
    execBpedge pd pn pfs pf0 pbw s = .next (s.takeFault c v) := by
  simp only [execBpedge, requirePow2, finish_require_bind, decide_eq_true_eq, if_pos hpow, if_pos hcap, hedge]
  rfl

/-! ### `BPMASK` and `BPF` -/

/-- The check of `BPMASK` that fails first is the one that raises (R255). -/
theorem execBpmask_of_not {i0 i1 : Nat} (h0 : (s.blockP pi 0).toNat = i0) (h1 : (s.blockP pi 1).toNat = i1)
    (h : ¬ (ispow2 (s.clen cb) = true ∧ i1 < s.clen cb / 2 ∧ i0 ≤ i1)) :
    execBpmask cb pi s = .next (if ispow2 (s.clen cb) = false then s.takeFault .notPow2 (s.clen cb)
      else if s.clen cb / 2 ≤ i1 then s.takeFault .bpNyquist i1 else s.takeFault .param i0) := by
  simp only [execBpmask, requirePow2, finish_require_bind, decide_eq_true_eq, h0, h1]
  by_cases hpow : ispow2 (s.clen cb) = false
  · simp [hpow]
  by_cases hnyq : s.clen cb / 2 ≤ i1
  · simp [hpow, hnyq]
  have hle : ¬ i0 ≤ i1 := fun hle => h ⟨Bool.of_not_eq_false hpow, not_le.mp hnyq, hle⟩
  simp [hpow, hnyq, hle]

theorem execBpf_of_not_ispow2 (hpow : ispow2 (s.clen cb) = false) :
    execBpf cb pfs pf0 pbw s = .next (s.takeFault .notPow2 (s.clen cb)) := by
  simp only [execBpf, requirePow2, finish_require_bind, hpow]
  rfl

theorem execBpf_of_error (hpow : ispow2 (s.clen cb) = true)
    (hedge : bpedge (s.clen cb) (s.real pfs) (s.real pf0) (s.real pbw) = .error (c, v)) :
    execBpf cb pfs pf0 pbw s = .next (s.takeFault c v) := by
  simp only [execBpf, requirePow2, finish_require_bind, if_pos hpow, hedge]
  rfl

end

/-- Settles O35: the checks of the edges, and `BPEDGE` by its own two checks and by what the edge computation answers. -/
theorem bandEdges : Obligations.BandEdges := by
  refine ⟨bpedge_eq, fun pd pn pfs pf0 pbw s => ⟨rfl, fun i0 i1 hpd hpow hcap hedge => ?_, execBpedge_of_not_ispow2,
    execBpedge_of_cap_lt, fun _ _ => execBpedge_of_error⟩⟩
  obtain ⟨P, hP⟩ := s.setEdges_frame hpd (s.idx pn) i0 i1
  refine ⟨P, ?_, fun r => ?_⟩
  · rw [exec, execBpedge_of_ok hpow hcap hedge, hP]
    rfl
  · rw [← s.getP_setEdges hpd, hP]
    rfl

/-- Settles O37: both commands overwrite the bank with the masked spectrum, and otherwise raise what their checks raise. -/
theorem bandMask : Obligations.BandMask := by
  refine ⟨fun cb pi h s => ?_, fun cb pfs pf0 pbw s =>
    ⟨rfl, fun i0 i1 hpow hedge => ?_, execBpf_of_not_ispow2, fun c v => execBpf_of_error⟩⟩
  · have h0 := congrArg BitVec.toNat (s.blockP_eq_getP (base := pi) (k := 0) pi.isLt)
    have h1 := congrArg BitVec.toNat (s.blockP_eq_getP (base := pi) (k := 1) h)
    refine ⟨rfl, fun hpow hnyq hle => ?_, execBpmask_of_not h0 h1⟩
    rw [exec, execBpmask_of_ok hpow h0 h1 hnyq hle]
    exact done_updCplxBuf s cb (by simp)
  · rw [exec, execBpf_of_ok hpow hedge]
    exact done_updCplxBuf s cb (by simp)

/-! ### The mask twice -/

theorem bpmask_bpmask (i0 i1 : Nat) (x : List Cplx) : bpmask i0 i1 (bpmask i0 i1 x) = bpmask i0 i1 x := by
  refine eq_of_at_eq (bpmask_length _ _ _) fun k hk => ?_
  simp only [bpmask_length] at hk
  rw [at_bpmask i0 i1 (by rwa [bpmask_length]), at_bpmask i0 i1 hk, bpmask_length]
  split <;> rfl

/-- Settles O38: a bin that is not kept is `(+0, +0)` after either pass, and a kept one is what it was. -/
theorem maskIdempotent : Obligations.MaskIdempotent := bpmask_bpmask

end Sys2Proof.Machine
end

section
/-! The commands of 45_convolution (R271, R273): the product of two spectra sample by sample (R270), what each command
leaves when its checks hold, and the first check that fails. -/

namespace Sys2Proof.Machine

open Sys2Proof

/-! ### `CMULV` -/

theorem cmulv_map_range (f g : Nat → Cplx) (n : Nat) :
    cmulv ((List.range n).map f) ((List.range n).map g) = (List.range n).map fun i => cmul (f i) (g i) := by
  rw [cmulv, List.zipWith_map, List.zipWith_self]

/-- The products of two buffers of one length, sample by sample (R270). -/
theorem cmulv_eq_map_range {u v : List Cplx} {n : Nat} (hu : u.length = n) (hv : v.length = n) :
    cmulv u v = (List.range n).map fun i => cmul (at_ u i) (at_ v i) :=
  calc cmulv u v
      = cmulv ((List.range u.length).map (at_ u)) ((List.range v.length).map (at_ v)) := by
        rw [map_range_at, map_range_at]
    _ = (List.range n).map fun i => cmul (at_ u i) (at_ v i) := by rw [hu, hv, cmulv_map_range]

section
variable {s : State} {cd cs : Fin 4}

theorem execCmulv_of_clen_eq (h : s.clen cs = s.clen cd) : execCmulv cd cs s =
    done (s.updCplxBuf cd ((List.range (s.clen cd)).map fun i => cmul (s.readCplx cd i) (s.readCplx cs i))) := by
  rw [execCmulv, finish_require_bind, if_pos (decide_eq_true h), State.cplxBuf, State.cplxBuf, h, cmulv_map_range]
  rfl

theorem execCmulv_of_clen_ne (h : s.clen cs ≠ s.clen cd) :
    execCmulv cd cs s = .next (s.takeFault .lenMismatch (s.clen cs)) := by
  rw [execCmulv, finish_require_bind, if_neg (by simpa using h)]

end

/-! ### `CONV` -/

/-- A command that sets two complex banks and then a real one, to samples read before any of them. -/
theorem done_setCplxBuf_setCplxBuf_setRealBuf (s : State) (c d r : Fin 4) (ys xs : List Cplx) (zs : List F32) :
    ∃ C D R : Bank, done (((s.setCplxBuf c ys).setCplxBuf d xs).setRealBuf r zs) =
        .next { s with CB := (s.CB.set c C).set d D, RB := s.RB.set r R, pc := s.pc + 1 } ∧
      C.holdsCplx c ys ∧ D.holdsCplx d xs ∧ R.holdsReal r zs :=
  ⟨_, _, _, rfl, Bank.holdsCplx_fresh _ c ys, Bank.holdsCplx_fresh _ d xs, Bank.holdsReal_fresh _ r zs⟩

section
variable {s : State} {rd ra rb ca cb : Fin 4} {ps : Fin 16}

theorem rfft_realBuf_length {r : Fin 4} {size : Nat} (gen : Config.TwiddleGen) (h : s.rlen r ≤ size) :
    (rfft gen (s.realBuf r) size).length = size := by
  rw [rfft_length, State.realBuf_length, max_eq_right h]

theorem execConv_of_fits (hne : ca ≠ cb) (hpow : ispow2 (s.idx ps) = true) (hcap : s.idx ps ≤ s.cap)
    (ha : s.rlen ra ≤ s.idx ps) (hb : s.rlen rb ≤ s.idx ps) :
    let a := rfft s.cfg.twiddle (s.realBuf ra) (s.idx ps)
    let b := rfft s.cfg.twiddle (s.realBuf rb) (s.idx ps)
    let c := ifft s.cfg.twiddle (cmulv a b)
    execConv rd ra rb ca cb ps s = done (((s.setCplxBuf ca c).setCplxBuf cb b).setRealBuf rd (realp c)) := by
  rw [execConv, requireDistinct, finish_require_bind, if_pos (decide_eq_true hne),
    finish_requireLift_bind hpow hcap ha, finish_require_bind, if_pos (decide_eq_true hb)]
  rfl

/-- The check of `CONV` that fails first is the one that raises (R273). -/
theorem execConv_of_not (h : ¬ (ca ≠ cb ∧ ispow2 (s.idx ps) = true ∧ s.idx ps ≤ s.cap ∧ s.rlen ra ≤ s.idx ps ∧
      s.rlen rb ≤ s.idx ps)) :
    execConv rd ra rb ca cb ps s =
      .next (if ca = cb then s.takeFault .aliased ca.val
        else if ispow2 (s.idx ps) = false then s.takeFault .notPow2 (s.idx ps)
        else if s.cap < s.idx ps then s.takeFault .bounds (s.idx ps)
        else if s.idx ps < s.rlen ra then s.takeFault .bounds (s.rlen ra)
        else s.takeFault .bounds (s.rlen rb)) := by
  rw [execConv, requireDistinct, finish_require_bind]
  by_cases hne : ca = cb
  · simp [hne]
  rw [if_pos (decide_eq_true hne), if_neg hne]
  by_cases hlift : ispow2 (s.idx ps) = true ∧ s.idx ps ≤ s.cap ∧ s.rlen ra ≤ s.idx ps
  · obtain ⟨hpow, hcap, ha⟩ := hlift
    have hb : ¬ s.rlen rb ≤ s.idx ps := fun hb => h ⟨hne, hpow, hcap, ha, hb⟩
    rw [finish_requireLift_bind hpow hcap ha, finish_require_bind, if_neg (by simpa using hb),
      if_neg (by simp [hpow]), if_neg (not_lt.mpr hcap), if_neg (not_lt.mpr ha)]
  · rw [finish_requireLift_bind_of_not hlift]
    by_cases ha : s.idx ps < s.rlen ra
    · rw [if_pos ha]
    · have hsize : ¬ (ispow2 (s.idx ps) = true ∧ s.idx ps ≤ s.cap) := fun ⟨hpow, hcap⟩ =>
        hlift ⟨hpow, hcap, not_lt.mp ha⟩
      by_cases hpow : ispow2 (s.idx ps) = false
      · rw [if_pos hpow, if_pos hpow]
      · have hcap : s.cap < s.idx ps := not_le.mp fun hcap => hsize ⟨Bool.of_not_eq_false hpow, hcap⟩
        rw [if_pos hcap, if_pos hcap]

end

/-- Settles O39: `CMULV` by its one check, the products read from both banks before either is written; `CONV` by its five
checks, where the two spectra have the length `S` of the product and of its inverse transform. -/
theorem spectralProducts : Obligations.SpectralProducts := by
  refine ⟨fun cd cs s => ⟨rfl, fun h => ?_, execCmulv_of_clen_ne⟩,
    fun rd ra rb ca cb ps s => ⟨rfl, fun hne hpow hcap ha hb => ?_, execConv_of_not⟩⟩
  · rw [exec, execCmulv_of_clen_eq h]
    exact (done_updCplxBuf s cd (by simp)).imp fun _ ⟨hdone, _, hB⟩ => ⟨hdone, hB⟩
  · have hlenA := rfft_realBuf_length s.cfg.twiddle ha
    have hlenB := rfft_realBuf_length s.cfg.twiddle hb
    rw [exec, execConv_of_fits hne hpow hcap ha hb, cmulv_eq_map_range hlenA hlenB]
    obtain ⟨A, B, R, hdone, hA, hB, hR⟩ := done_setCplxBuf_setCplxBuf_setRealBuf s ca cb rd
      (ifft s.cfg.twiddle ((List.range (s.idx ps)).map fun i => cmul
        (at_ (rfft s.cfg.twiddle (s.realBuf ra) (s.idx ps)) i) (at_ (rfft s.cfg.twiddle (s.realBuf rb) (s.idx ps)) i)))
      (rfft s.cfg.twiddle (s.realBuf rb) (s.idx ps)) _
    exact ⟨A, B, R, hdone, hA.1.trans (by simp), hA, hB.1.trans hlenB, hB, hR.1.trans (by simp), hR⟩

end Sys2Proof.Machine
end

section
/-! The commands of 46_xcorr (R282 to R286): the two maps over a spectrum, the product of the whitened signal spectrum
with the filter bank sample by sample (R288), and the first check of `XCORR` that fails. -/

namespace Sys2Proof.Machine

open Sys2Proof

/-! ### `CONJV` -/

/-- Conjugating twice restores a sample bit for bit (R282). -/
@[simp] theorem cconj_cconj (z : Cplx) : cconj (cconj z) = z := by simp [cconj]

/-! ### `XCORR` -/

/-- A command that sets a complex bank to `n` samples and overwrites the `n` samples of a real bank by their real
parts. -/
theorem done_setCplxBuf_updRealBuf (s : State) (c r : Fin 4) {xs : List Cplx} {n : Nat} (hxs : xs.length = n)
    (hr : s.rlen r = n) :
    ∃ W R : Bank, done ((s.setCplxBuf c xs).updRealBuf r (realp xs)) =
        .next { s with CB := s.CB.set c W, RB := s.RB.set r R, pc := s.pc + 1 } ∧
      W.len = n ∧ W.holdsCplx c xs ∧ R.len = n ∧ R.holdsReal r (realp xs) := by
  have hlen : s.rlen r = (realp xs).length := by rw [realp_length, hxs, hr]
  refine ⟨_, _, rfl, hxs, Bank.holdsCplx_fresh _ c xs, hr, hlen, fun _ hi => ?_⟩
  rw [Mem.read_overwrite _ _ _ hi, List.getD_eq_getElem _ _ hi]

section
variable {s : State} {rsig cf cw : Fin 4}

/-- The product of a spectrum as long as the bank with the samples of the bank. -/
theorem cmulv_cplxBuf {u : List Cplx} (h : u.length = s.clen cf) :
    cmulv u (s.cplxBuf cf) = (List.range (s.clen cf)).map fun i => cmul (at_ u i) (s.readCplx cf i) := by
  rw [← cmulv_map_range, ← h, map_range_at, h, State.cplxBuf]

theorem xcorr_cplxBuf (gen : Config.TwiddleGen) (hl : s.rlen rsig = s.clen cf) :
    xcorr gen (s.cplxBuf cf) (s.realBuf rsig) = ifft gen ((List.range (s.clen cf)).map fun i =>
      cmul (at_ ((rfft gen (s.realBuf rsig) (s.clen cf)).map cnorm) i) (s.readCplx cf i)) := by
  have hlen : (whiten (rfft gen (s.realBuf rsig) (s.clen cf))).length = s.clen cf := by
    rw [whiten_length, rfft_realBuf_length gen hl.le]
  rw [xcorr, State.cplxBuf_length, cmulv_cplxBuf hlen, whiten]

theorem execXcorr_of_fits (hne : cw ≠ cf) (hpow : ispow2 (s.clen cf) = true) (hl : s.rlen rsig = s.clen cf) :
    let w := xcorr s.cfg.twiddle (s.cplxBuf cf) (s.realBuf rsig)
    execXcorr rsig cf cw s = done ((s.setCplxBuf cw w).updRealBuf rsig (realp w)) := by
  simp only [execXcorr, requirePow2, finish_require_bind, decide_eq_true_eq, if_pos hne, if_pos hpow, if_pos hl]
  rfl

/-- The check of `XCORR` that fails first is the one that raises (R286). -/
theorem execXcorr_of_not (h : ¬ (cw ≠ cf ∧ ispow2 (s.clen cf) = true ∧ s.rlen rsig = s.clen cf)) :
    execXcorr rsig cf cw s = .next (if cw = cf then s.takeFault .aliased cw.val
      else if ispow2 (s.clen cf) = false then s.takeFault .notPow2 (s.clen cf)
      else s.takeFault .lenMismatch (s.rlen rsig)) := by
  simp only [execXcorr, requirePow2, finish_require_bind, decide_eq_true_eq]
  by_cases hne : cw = cf
  · simp [hne]
  by_cases hpow : ispow2 (s.clen cf) = false
  · simp [hne, hpow]
  have hl : ¬ s.rlen rsig = s.clen cf := fun hl => h ⟨hne, Bool.of_not_eq_false hpow, hl⟩
  simp [hne, hpow, hl]

end

/-- Settles O40: `CONJV` and `WHITEN` overwrite a bank with as many samples; `XCINIT` shares the three checks of `RFFT`;
the whitened spectrum of `XCORR` has the length of the filter bank, and so have its product and both results. -/
theorem correlation : Obligations.Correlation := by
  refine ⟨fun cb s => ⟨rfl, rfl, done_updCplxBuf s cb (by simp), done_updCplxBuf s cb (by simp)⟩, cconj_cconj,
    fun cf rs ps s => ⟨rfl, fun hpow hcap hl => ?_, fun h => finish_requireLift_bind_of_not h _⟩,
    fun rsig cf cw s => ⟨rfl, fun hne hpow hl => ?_, execXcorr_of_not⟩⟩
  · rw [exec, execXcinit_of_fits hpow hcap hl]
    exact done_setCplxBuf_of_length s cf (by rw [conjv_length, rfft_realBuf_length _ hl])
  · rw [exec, execXcorr_of_fits hne hpow hl, xcorr_cplxBuf _ hl]
    exact done_setCplxBuf_updRealBuf s cw rsig (by simp) hl

end Sys2Proof.Machine
end

section
/-! The Walsh table as a function of the order (49_walsh R330 to R332): the recursion in signs and in integers, and the
orthogonality of its rows under the rule `both` (R337), by induction on the order. -/

namespace Sys2Proof.Machine

open Sys2Proof

/-! ### The recursion -/

section
variable (rule : Config.WalshNegRule) {n i j : Nat}

@[simp] theorem Sign.toInt_flip (v : Sign) : v.flip.toInt = -v.toInt := by cases v <;> rfl

/-- The factor by which the recursion multiplies the entry of the order below (R332). -/
def walshFactor (rule : Config.WalshNegRule) (n i j : Nat) : Int :=
  if negate rule (decide (2 ^ n ≤ i)) (decide (2 ^ n ≤ j)) then -1 else 1

theorem toInt_walsh_succ (n i j : Nat) : (walsh rule (n + 2) i j).toInt =
    walshFactor rule n i j * (walsh rule (n + 1) (i % 2 ^ n) (j % 2 ^ n)).toInt := by
  rw [walsh, walshFactor]
  split <;> simp

/-- Both rules leave the quadrant of the small indices as it is (R331). -/
theorem walsh_upperLeft (hi : i < 2 ^ n) (hj : j < 2 ^ n) : walsh rule (n + 2) i j = walsh rule (n + 1) i j := by
  have hkeep : negate rule (decide (2 ^ n ≤ i)) (decide (2 ^ n ≤ j)) = false := by
    rw [decide_eq_false (not_le.mpr hi), decide_eq_false (not_le.mpr hj)]
    cases rule <;> rfl
  simp [walsh, hkeep, Nat.mod_eq_of_lt hi, Nat.mod_eq_of_lt hj]

end

/-- Settles O46: the factor of the recursion under each rule, and the quadrant that both leave alone. -/
theorem walshRecursion : Obligations.WalshRecursion := by
  intro rule
  refine ⟨fun _ _ => rfl, fun n i j hn _ _ => ?_, fun n i j hn hi hj => ?_⟩
  · obtain ⟨n, rfl⟩ := Nat.exists_eq_add_of_le' hn
    rw [toInt_walsh_succ]
    refine congrArg (· * _) ?_
    cases rule with
    | both => simp [walshFactor, negate]
    | exactlyOne =>
      by_cases hi : 2 ^ n ≤ i <;> by_cases hj : 2 ^ n ≤ j <;> simp [walshFactor, negate, hi, hj]
  · obtain ⟨n, rfl⟩ := Nat.exists_eq_add_of_le' hn
    exact walsh_upperLeft rule hi hj

/-! ### Orthogonality -/

theorem walsh_both_comm (n i j : Nat) : walsh .both n i j = walsh .both n j i := by
  induction n using Nat.twoStepInduction generalizing i j with
  | zero | one => rfl
  | more n _ ih => simp only [walsh, negate, ih (i % 2 ^ n), Bool.and_comm]

theorem walsh_both_zero_left (n j : Nat) : walsh .both n 0 j = .pos := by
  induction n using Nat.twoStepInduction generalizing j with
  | zero | one => rfl
  | more n _ ih => simp [walsh, negate, ih]

section
variable {n i k : Nat}

/-- In the left half of a row the order below stands, by the row's index modulo the half. -/
theorem toInt_walsh_both_left {j : Nat} (hj : j < 2 ^ n) :
    (walsh .both (n + 2) i j).toInt = (walsh .both (n + 1) (i % 2 ^ n) j).toInt := by
  rw [toInt_walsh_succ, walshFactor, negate, decide_eq_false (not_le.mpr hj), Nat.mod_eq_of_lt hj]
  simp

/-- In the right half the same stands, negated in the lower rows. -/
theorem toInt_walsh_both_right {j : Nat} (hj : j < 2 ^ n) : (walsh .both (n + 2) i (2 ^ n + j)).toInt =
    (if 2 ^ n ≤ i then -1 else 1) * (walsh .both (n + 1) (i % 2 ^ n) j).toInt := by
  rw [toInt_walsh_succ, walshFactor, negate, decide_eq_true (Nat.le_add_right _ _),
    Nat.add_mod_left, Nat.mod_eq_of_lt hj]
  simp

/-- The dot product of rows `i` and `k` of order `n + 1`. -/
def walshDot (n i k : Nat) : Int :=
  ((List.range (2 ^ n)).map fun j => (walsh .both (n + 1) i j).toInt * (walsh .both (n + 1) k j).toInt).sum

/-- The right half adds to the left half's product, or takes it away where one of the rows is a lower one alone. -/
theorem walshDot_succ : walshDot (n + 1) i k = walshDot n (i % 2 ^ n) (k % 2 ^ n) +
    (if 2 ^ n ≤ i ↔ 2 ^ n ≤ k then 1 else -1) * walshDot n (i % 2 ^ n) (k % 2 ^ n) := by
  have hsplit : List.range (2 ^ (n + 1)) = List.range (2 ^ n) ++ (List.range (2 ^ n)).map (2 ^ n + ·) := by
    rw [pow_succ, mul_two, List.range_add]
  rw [walshDot, hsplit, List.map_append, List.sum_append, List.map_map, walshDot, ← List.sum_map_mul_left]
  congr 2
  · refine List.map_congr_left fun j hj => ?_
    rw [toInt_walsh_both_left (List.mem_range.mp hj), toInt_walsh_both_left (List.mem_range.mp hj)]
  · refine List.map_congr_left fun j hj => ?_
    rw [Function.comp_apply, toInt_walsh_both_right (List.mem_range.mp hj),
      toInt_walsh_both_right (List.mem_range.mp hj)]
    by_cases hi : 2 ^ n ≤ i <;> by_cases hk : 2 ^ n ≤ k <;> simp [hi, hk]

/-- An index below `2 ^ (n + 1)` is its half and its place in it. -/
theorem eq_iff_half_and_mod (hi : i < 2 ^ (n + 1)) (hk : k < 2 ^ (n + 1)) :
    i = k ↔ (2 ^ n ≤ i ↔ 2 ^ n ≤ k) ∧ i % 2 ^ n = k % 2 ^ n := by
  refine ⟨fun h => by simp [h], fun ⟨hhalf, hmod⟩ => ?_⟩
  have mod_eq {m : Nat} (hm : m < 2 ^ (n + 1)) : m % 2 ^ n = if 2 ^ n ≤ m then m - 2 ^ n else m := by
    split
    next h => rw [Nat.mod_eq_sub_mod h, Nat.mod_eq_of_lt (by omega)]
    next h => exact Nat.mod_eq_of_lt (by omega)
  rw [mod_eq hi, mod_eq hk] at hmod
  split at hmod <;> split at hmod <;> omega

theorem walshDot_eq (hi : i < 2 ^ n) (hk : k < 2 ^ n) : walshDot n i k = if i = k then 2 ^ n else 0 := by
  induction n generalizing i k with
  | zero =>
    obtain rfl := Nat.lt_one_iff.mp hi
    obtain rfl := Nat.lt_one_iff.mp hk
    rfl
  | succ n ih =>
    rw [walshDot_succ, ih (Nat.mod_lt _ (by positivity)) (Nat.mod_lt _ (by positivity)),
      if_congr (eq_iff_half_and_mod hi hk) rfl rfl]
    by_cases hmod : i % 2 ^ n = k % 2 ^ n
    · by_cases hhalf : 2 ^ n ≤ i ↔ 2 ^ n ≤ k
      · simp [hmod, hhalf, pow_succ, mul_two]
      · simp [hmod, hhalf]
    · simp [hmod]

end

/-- Settles O47: the dot products by `walshDot_eq`, and the two tables of order 3 by evaluation. -/
theorem walshOrthogonal : Obligations.WalshOrthogonal := by
  refine ⟨fun n i k hn hi hk => ?_, walsh_both_comm, fun n i => ⟨walsh_both_zero_left n i, ?_⟩, by decide, by decide⟩
  · obtain ⟨n, rfl⟩ := Nat.exists_eq_add_of_le' hn
    exact walshDot_eq hi hk
  · rw [walsh_both_comm, walsh_both_zero_left]

end Sys2Proof.Machine
end

section
/-! The Hilbert quadrature unit (48_hilbert R320 to R325): which bin gets which rotation, and its two commands. -/

namespace Sys2Proof.Machine

open Sys2Proof

/-! ### The rotations -/

section
variable (z : Cplx)

@[simp] theorem rotn_rotp : rotn (rotp z) = z := by simp [rotn, rotp]

theorem rotp_rotp : rotp (rotp z) = ⟨F32.fneg z.re, F32.fneg z.im⟩ := rfl

theorem rotn_rotn : rotn (rotn z) = ⟨F32.fneg z.re, F32.fneg z.im⟩ := rfl

/-- With the default class, bin `N/2` turns as the bins above it do (R321). -/
theorem rotBin_negative (n k : Nat) :
    rotBin .negative n k z = if k = 0 then z else if k < n / 2 then rotp z else rotn z := by
  rw [rotBin, rotNyquist, ite_self]

theorem rotBin_negative_twice (n k : Nat) : rotBin .negative n k (rotBin .negative n k z) =
    if k = 0 then z else ⟨F32.fneg z.re, F32.fneg z.im⟩ := by
  simp only [rotBin_negative]
  split
  · rfl
  · split
    · exact rotp_rotp z
    · exact rotn_rotn z

end

theorem at_hrot {u : List Cplx} {k : Nat} (cls : Config.NyqClass) (hk : k < u.length) :
    at_ (hrot cls u) k = rotBin cls u.length k (at_ u k) := at_map_range _ hk

/-- Settles O44: the bins are rotated one by one, so a second rotation meets each bin where the first one left it. -/
theorem hilbertRotations : Obligations.HilbertRotations := by
  refine ⟨fun z => ⟨rfl, rfl, rotn_rotp z⟩, fun u _ => ⟨hrot_length _ u, fun k hk => ?_, fun k hk => ?_⟩⟩
  · rw [at_hrot _ hk, rotBin_negative]
    split
    next h => rw [h]
    next => rfl
  · rw [at_hrot _ (by rwa [hrot_length]), at_hrot _ hk, hrot_length, rotBin_negative_twice]
    split
    next h => rw [h]
    next => rfl

/-! ### The commands -/

theorem State.getD_realBuf {s : State} {r : Fin 4} {i : Nat} (h : i < s.rlen r) :
    (s.realBuf r).getD i F32.zero = s.readReal r i := by
  rw [List.getD_eq_getElem _ _ (by rwa [realBuf_length])]
  simp [realBuf]

/-- The pairs that `HILB` leaves, by the samples of the real bank (R325). -/
theorem hilbert_realBuf (s : State) (gen : Config.TwiddleGen) (cls : Config.NyqClass) (r : Fin 4) (n : Nat) :
    hilbert gen cls (s.realBuf r) n = (List.range (s.rlen r)).map fun k =>
      ⟨s.readReal r k, (at_ (ifft gen (hrot cls (rfft gen (s.realBuf r) n))) k).re⟩ := by
  rw [hilbert, State.realBuf_length]
  refine List.map_congr_left fun k hk => ?_
  rw [State.getD_realBuf (List.mem_range.mp hk)]

/-- Settles O42: `HROT` by the check of the length that it shares with the transforms, `HILB` by the three that it
shares with `RFFT`. -/
theorem quadrature : Obligations.Quadrature := by
  refine ⟨fun cb s => ⟨rfl, fun hpow => ?_, finish_inPlace_of_not_ispow2⟩,
    fun cd rs pn s => ⟨rfl, fun hpow hcap hl => ?_, fun h => finish_requireLift_bind_of_not h _⟩⟩
  · rw [exec, execHrot, finish_inPlace_of_ispow2 hpow]
    exact done_updCplxBuf s cb (by simp)
  · rw [exec, execHilb, finish_requireLift_bind hpow hcap hl, ← hilbert_realBuf]
    exact done_setCplxBuf_of_length s cd (by simp)

end Sys2Proof.Machine
end

section
/-! The commands of 47_resample (R302 to R305): what each leaves when its checks hold, and the first check that fails. -/

namespace Sys2Proof.Machine

open Sys2Proof

/-! ### `ZSTUFF` and `DECIM` -/

section
variable {s : State} {cd cs rd : Fin 4} {pt pstep pn : Fin 16}

theorem execZstuff_of_fits (hne : cd ≠ cs) (hn0 : ispow2 (s.clen cs) = true) (ht : ispow2 (s.idx pt) = true)
    (hcap : s.idx pt * s.clen cs ≤ s.cap) (h2 : 2 ≤ s.clen cs) :
    execZstuff cd cs pt s = done (s.setCplxBuf cd (zstuff (s.cplxBuf cs) (s.idx pt))) := by
  simp only [execZstuff, requireDistinct, finish_require_bind, decide_eq_true_eq, if_pos hne, if_pos hn0, if_pos ht,
    if_pos hcap, if_pos h2]
  rfl

/-- The check of `ZSTUFF` that fails first is the one that raises (R303). -/
theorem execZstuff_of_not (h : ¬ (cd ≠ cs ∧ ispow2 (s.clen cs) = true ∧ ispow2 (s.idx pt) = true ∧
      s.idx pt * s.clen cs ≤ s.cap ∧ 2 ≤ s.clen cs)) :
    execZstuff cd cs pt s =
      .next (if cd = cs then s.takeFault .aliased cd.val
        else if ispow2 (s.clen cs) = false then s.takeFault .notPow2 (s.clen cs)
        else if ispow2 (s.idx pt) = false then s.takeFault .notPow2 (s.idx pt)
        else if s.cap < s.idx pt * s.clen cs then s.takeFault .bounds (s.idx pt * s.clen cs)
        else s.takeFault .param (s.clen cs)) := by
  simp only [execZstuff, requireDistinct, finish_require_bind, decide_eq_true_eq]
  by_cases hne : cd = cs
  · simp [hne]
  by_cases hn0 : ispow2 (s.clen cs) = false
  · simp [hne, hn0]
  by_cases ht : ispow2 (s.idx pt) = false
  · simp [hne, hn0, ht]
  by_cases hcap : s.cap < s.idx pt * s.clen cs
  · simp [hne, hn0, ht, hcap]
  have h2 : ¬ 2 ≤ s.clen cs := fun h2 =>
    h ⟨hne, Bool.of_not_eq_false hn0, Bool.of_not_eq_false ht, not_lt.mp hcap, h2⟩
  simp [hne, hn0, ht, hcap, h2]

/-- The check of `DECIM` that fails first is the one that raises (R304). -/
theorem execDecim_of_not (h : ¬ (s.idx pn ≤ s.cap ∧ s.idx pstep ≠ 0)) : execDecim rd cs pstep pn s =
    .next (if s.cap < s.idx pn then s.takeFault .bounds (s.idx pn) else s.takeFault .param 0) := by
  simp only [execDecim, finish_require_bind, decide_eq_true_eq]
  by_cases hcap : s.cap < s.idx pn
  · simp [hcap]
  have hstep : ¬ s.idx pstep ≠ 0 := fun hstep => h ⟨not_lt.mp hcap, hstep⟩
  simp [hcap, hstep]

end

/-! ### `RESAMP` -/

section
variable {q : F32}

theorem decimStep_eq_ok {k : Nat} (hq : F32.f2iRound q = some (k : Int)) (hk : 1 ≤ k) : decimStep q = .ok k := by
  rw [decimStep, hq]
  exact if_pos (by exact_mod_cast hk)

theorem decimStep_eq_error (h : F32.f2iRound q = none ∨ ∃ k, F32.f2iRound q = some k ∧ k < 1) :
    decimStep q = .error (.param, q.toNat) := by
  obtain hq | ⟨k, hq, hk⟩ := h
  · rw [decimStep, hq]
  · rw [decimStep, hq]
    exact if_neg (not_le.mpr hk)

end

/-- The five registers that `RESAMP` reads, from `P[pbase]` on (R305). -/
structure State.ResampBlock (s : State) (pbase : Fin 16) (n0 n1 t : Nat) (f0 f1 : F32) : Prop where
  size0 : (s.blockP pbase 0).toNat = n0
  size1 : (s.blockP pbase 1).toNat = n1
  factor : (s.blockP pbase 2).toNat = t
  rate0 : s.blockP pbase 3 = f0
  rate1 : s.blockP pbase 4 = f1

theorem State.resampBlock (s : State) {pbase : Fin 16} (h : pbase.val + 4 < 16) :
    s.ResampBlock pbase (s.getP pbase).toNat (s.getP ⟨pbase.val + 1, by omega⟩).toNat
      (s.getP ⟨pbase.val + 2, by omega⟩).toNat (s.getP ⟨pbase.val + 3, by omega⟩) (s.getP ⟨pbase.val + 4, h⟩) where
  size0 := congrArg BitVec.toNat (s.blockP_eq_getP (k := 0) _)
  size1 := congrArg BitVec.toNat (s.blockP_eq_getP _)
  factor := congrArg BitVec.toNat (s.blockP_eq_getP _)
  rate0 := s.blockP_eq_getP _
  rate1 := s.blockP_eq_getP _

section
variable {s : State} {rd rs ca cb : Fin 4} {pbase : Fin 16} {n0 n1 t : Nat} {f0 f1 : F32}
  (hblock : s.ResampBlock pbase n0 n1 t f0 f1)
include hblock

/-- The effects of `RESAMP` once its checks hold. -/
theorem execResamp_of_fits {k : Nat} (hne : ca ≠ cb) (hn0 : ispow2 n0 = true) (ht : ispow2 t = true)
    (hcap : t * n0 ≤ s.cap) (hl : s.rlen rs ≤ n0) (hn1 : n1 ≤ s.cap) (h2 : 2 ≤ n0)
    (hstep : decimStep (stepQuotient f0 t f1) = .ok k) :
    let a := rfft s.cfg.twiddle (s.realBuf rs) n0
    let w := ifft s.cfg.twiddle (zstuff a t)
    execResamp rd rs ca cb pbase s =
      done (((s.setCplxBuf ca a).setCplxBuf cb w).setRealBuf rd (decim w k n1)) := by
  obtain ⟨rfl, rfl, rfl, rfl, rfl⟩ := hblock
  simp only [execResamp, requireDistinct, finish_require_bind, decide_eq_true_eq, if_pos hne, if_pos hn0, if_pos ht,
    if_pos hcap, if_pos hl, if_pos hn1, if_pos h2, hstep]
  rfl

/-- The check of `RESAMP` that fails first is the one that raises (R305). -/
theorem execResamp_of_not (h : ca = cb ∨ ispow2 n0 = false ∨ ispow2 t = false ∨ s.cap < t * n0 ∨ n0 < s.rlen rs ∨
      s.cap < n1 ∨ n0 < 2 ∨ F32.f2iRound (stepQuotient f0 t f1) = none ∨
      ∃ k, F32.f2iRound (stepQuotient f0 t f1) = some k ∧ k < 1) :
    execResamp rd rs ca cb pbase s =
      .next (if ca = cb then s.takeFault .aliased ca.val
        else if ispow2 n0 = false then s.takeFault .notPow2 n0
        else if ispow2 t = false then s.takeFault .notPow2 t
        else if s.cap < t * n0 then s.takeFault .bounds (t * n0)
        else if n0 < s.rlen rs then s.takeFault .bounds (s.rlen rs)
        else if s.cap < n1 then s.takeFault .bounds n1
        else if n0 < 2 then s.takeFault .param n0
        else s.takeFault .param (stepQuotient f0 t f1).toNat) := by
  obtain ⟨rfl, rfl, rfl, rfl, rfl⟩ := hblock
  simp only [execResamp, requireDistinct, finish_require_bind, decide_eq_true_eq, apply_ite Host.Outcome.next]
  simp only [← not_lt, ne_eq, ite_not, ← Bool.not_eq_false]
  split_ifs with hne hn0 ht hcap hl hn1 h2
  iterate 7 rfl
  have hq := h.resolve_left hne |>.resolve_left hn0 |>.resolve_left ht |>.resolve_left hcap |>.resolve_left hl
    |>.resolve_left hn1 |>.resolve_left h2
  rw [decimStep_eq_error hq]
  rfl

end

/-- Settles O41: each command by its checks; the spectrum has `size0` points, which `T` zero-stuffs to `T * size0`. -/
theorem resampling : Obligations.Resampling := by
  refine ⟨fun cd cs pt s => ⟨rfl, fun hne hn0 ht hcap h2 => ?_, execZstuff_of_not⟩,
    fun rd cs pstep pn s => ⟨rfl, fun hn1 hstep => ?_, execDecim_of_not⟩,
    fun rd rs ca cb pbase h s => ⟨rfl, fun k hne hn0 ht hcap hl hn1 h2 hk hq => ?_, fun hnot => ?_⟩⟩
  · rw [exec, execZstuff_of_fits hne hn0 ht hcap h2]
    exact done_setCplxBuf_of_length s cd (by simp [zstuff_length _ (State.one_le_of_ispow2 ht)])
  · rw [exec, execDecim_of_fits hstep hn1]
    exact (done_setRealBuf s rd _).imp fun B ⟨hdone, hB⟩ => ⟨hdone, hB.1.trans (by simp), hB⟩
  · have hlen := rfft_realBuf_length s.cfg.twiddle hl
    rw [exec, execResamp_of_fits (s.resampBlock h) hne hn0 ht hcap hl hn1 h2 (decimStep_eq_ok hq hk)]
    obtain ⟨A, B, R, hdone, hA, hB, hR⟩ := done_setCplxBuf_setCplxBuf_setRealBuf s ca cb rd _ _ _
    refine ⟨A, B, R, hdone, hA.1.trans hlen, hA, hB.1.trans ?_, hB, hR.1.trans (by simp), hR⟩
    rw [ifft_length, zstuff_length _ (State.one_le_of_ispow2 ht), hlen]
  · exact execResamp_of_not (s.resampBlock h) hnot

end Sys2Proof.Machine
end

section
/-! A step that resets, a step that faults in the fetch, the fault entry, and the level of the interrupt output
(60_exceptions R352, R360, R362, R370; 70_reset_and_hazards R391). -/

namespace Sys2Proof.Machine

open Sys2Proof

/-- Settles O2: the reset input is the next turn, and `SRST` is step (1) of a `CTRL` write. -/
theorem resetSources : Obligations.ResetSources :=
  ⟨fun _ _ h => step_of_move h, fun s rest v h => (State.controlWrite s rest v h).1⟩

/-! ### Faults -/

section
variable {s : State}

theorem fetch_of_cmdCap_le (h : s.cfg.cmdCap ≤ s.pc) : fetch s = .error (.pcRange, s.pc) := if_neg (not_lt.mpr h)

theorem fetch_of_decode_eq_none (hpc : s.pc < s.cfg.cmdCap) (hdec : decode (s.readCM s.pc) = none) :
    fetch s = .error (.illegalCmd, (s.readCM s.pc).toNat) := by
  rw [fetch, if_pos hpc, hdec]

theorem engineStep_of_fetch_error {c : Cause} {v : Nat} (hrun : s.STATE = .run) (hf : fetch s = .error (c, v)) :
    engineStep s = .next (s.takeFault c v) := by
  rw [engineStep, hrun, hf]

/-- `FINFO` holds a whole word (R370). -/
theorem ofNat_min_toNat (w : Word) : BitVec.ofNat 32 (min w.toNat 0xFFFFFFFF) = w := by
  rw [min_eq_left (Nat.le_of_lt_succ w.isLt), BitVec.ofNat_toNat, BitVec.setWidth_eq]

end

/-- Settles O6, by the two checks of the fetch. -/
theorem fetchFaults : Obligations.FetchFaults := by
  refine ⟨fun s hhost hrun hpc => ?_, fun s hhost hrun hpc hdec => ?_⟩
  · rw [step_of_no_host hhost, engineStep_of_fetch_error hrun (fetch_of_cmdCap_le hpc)]
    rfl
  · rw [step_of_no_host hhost, engineStep_of_fetch_error hrun (fetch_of_decode_eq_none hpc hdec), State.takeFault,
      ofNat_min_toNat]

namespace State

variable {s : State}

theorem irq_iff : s.irq = true ↔ s.IE = true ∧ (s.STATE = .halted ∨ s.STATE = .fault) := by simp [irq]

/-- Settles O7: the record and `STATE` are what fault entry writes. -/
theorem faultEntry : Obligations.FaultEntry := fun _ _ _ => ⟨rfl, rfl, fun hIE => irq_iff.mpr ⟨hIE, .inr rfl⟩⟩

/-! ### The interrupt output -/

/-- A `CTRL` write without `SRST` leaves the output high only where `IE` is written as 1 to a run that ended and that
neither `CLRF` nor `START` takes away. -/
theorem irq_writeCtrl {v : Word} (hrst : v.getLsbD 2 = false) (h : (s.writeCtrl v).irq = true) :
    v.getLsbD 3 = true ∧ ¬ s.Clears v ∧ ¬ s.Starts v ∧ (s.STATE = .halted ∨ s.STATE = .fault) := by
  rw [writeCtrl_of_not_reset hrst, irq_iff] at h
  obtain ⟨hIE, hend⟩ := h
  dsimp only at hIE hend
  split at hend
  next => simp at hend
  next hs =>
    split at hend
    next => simp at hend
    next hc => exact ⟨hIE, hc, hs, hend⟩

theorem restart_irq (s : State) (ie : Bool) : (s.restart ie).irq = false := by simp [irq, restart, resetWith]

/-- Settles O8: a write that would leave the output high has none of the three bits that take it away. -/
theorem interruptLevel : Obligations.InterruptLevel := by
  refine ⟨fun _ => irq_iff, fun s => s.statusWord_fields.2.1, fun s v hrst hlow => ?_, restart_irq⟩
  refine Bool.eq_false_iff.mpr fun hirq => ?_
  obtain ⟨hIE, hclears, hstarts, hend⟩ := irq_writeCtrl hrst hirq
  obtain hclrf | ⟨hstart, hstate⟩ | hIE' := hlow
  · exact hclears ⟨hclrf, hend⟩
  · exact hstarts ⟨hstart, .inr (.inr (hend.resolve_right hstate))⟩
  · exact Bool.false_ne_true (hIE'.symm.trans hIE)

end State

end Sys2Proof.Machine
end

section
/-! The frames of the banks (70_reset_and_hazards R400, R402, R407): the banks a command does not name, and of those it
names the words beyond a length that it does not set (log entries 13 and 14). -/

namespace Sys2Proof.Machine.State

open Sys2Proof

variable {i : Instr} {s t u : State}

/-! ### Banks that are not named -/

theorem getElem_set_of_ne {v : Vector Bank 4} {r q : Fin 4} (B : Bank) (h : r ≠ q) : (v.set q B)[r] = v[r] :=
  Vector.getElem_set_ne _ _ fun e => h (Fin.ext e.symm)

theorem Writes.realBank_eq (h : Writes i s u) {r : Fin 4} (hr : i.writesR r = false) : u.RB[r] = s.RB[r] := by
  have other {q : Fin 4} (hq : i.writesR q = true) : r ≠ q := by
    rintro rfl
    simp [hq] at hr
  induction h with
  | setRealBuf _ q _ hq _ ih | updRealBuf _ q _ hq _ ih | writeReal _ q _ _ hq _ ih =>
    exact (getElem_set_of_ne _ (other hq)).trans ih
  | touch _ a b _ _ _ _ ih =>
    obtain ⟨wt, e⟩ := touch_frame _ a b
    rw [e]
    exact ih
  | nothing => rfl
  | setP _ _ _ _ ih | setZ _ _ _ _ ih | setCplxBuf _ _ _ _ _ ih | updCplxBuf _ _ _ _ _ ih | writeCplx _ _ _ _ _ _ ih
  | newOrder _ _ _ _ _ ih => exact ih

theorem Writes.cplxBank_eq (h : Writes i s u) {b : Fin 4} (hb : i.writesC b = false) : u.CB[b] = s.CB[b] := by
  have other {q : Fin 4} (hq : i.writesC q = true) : b ≠ q := by
    rintro rfl
    simp [hq] at hb
  induction h with
  | setCplxBuf _ q _ hq _ ih | updCplxBuf _ q _ hq _ ih => exact (getElem_set_of_ne _ (other hq)).trans ih
  | writeCplx _ q _ _ hq _ ih =>
    exact ((getElem_set_of_ne _ (other hq)).trans (getElem_set_of_ne _ (other hq))).trans ih
  | touch _ a b _ _ _ _ ih =>
    obtain ⟨wt, e⟩ := touch_frame _ a b
    rw [e]
    exact ih
  | nothing => rfl
  | setP _ _ _ _ ih | setZ _ _ _ _ ih | setRealBuf _ _ _ _ _ ih | updRealBuf _ _ _ _ _ ih | writeReal _ _ _ _ _ _ ih
  | newOrder _ _ _ _ _ ih => exact ih

/-- Settles O52: fault entry and `HALT` write no bank, a completed command only those its writes name. -/
theorem frameBanks : Obligations.FrameBanks := by
  intro i s t h
  cases exec_ends h with
  | halted | faulted => exact ⟨fun _ _ => ⟨rfl, fun _ => rfl⟩, fun _ _ => ⟨rfl, fun _ => rfl⟩⟩
  | completed hu =>
    refine ⟨fun r hr => ?_, fun b hb => ?_⟩
    · have hbank := hu.realBank_eq hr
      exact ⟨congrArg Bank.len hbank, fun k => congrArg (fun B : Bank => B.mem.read (.real r) k) hbank⟩
    · have hbank := hu.cplxBank_eq hb
      exact ⟨congrArg Bank.len hbank, fun k => congrArg (fun B : Bank => B.mem.read (.cplx b) k) hbank⟩

/-! ### Words beyond a length that is kept -/

theorem readReal_updRealBuf_beyond (s : State) (r : Fin 4) {xs : List F32} {k : Nat} (hk : xs.length ≤ k) :
    (s.updRealBuf r xs).readReal r k = s.readReal r k := by
  simp [readReal, Mem.read_overwrite_beyond _ _ _ hk]

theorem readCplxWord_updCplxBuf_beyond (s : State) (b : Fin 4) {xs : List Cplx} {k : Nat} (hk : 2 * xs.length ≤ k) :
    (s.updCplxBuf b xs).readCplxWord b k = s.readCplxWord b k := by
  simp [readCplxWord, Mem.read_overwrite_beyond _ _ _ ((cplxWords_length xs).trans_le hk)]

/-- A command that transforms a bank in place overwrites as many samples as the bank has, or takes a fault. -/
theorem exec_of_inPlaceC {cb : Fin 4} (hi : i.inPlaceC = some cb) (h : exec i s = .next t) :
    (∃ xs, xs.length = s.clen cb ∧ t = (s.updCplxBuf cb xs).advance) ∨ ∃ c v, t = s.takeFault c v := by
  cases i with
  | bitrev => cases hi; exact (execBitrev_next h).imp_left fun ⟨_, e⟩ => ⟨_, by simp, e⟩
  | bfly => cases hi; exact (execBfly_next h).imp_left fun ⟨_, e⟩ => ⟨_, by simp, e⟩
  | fft => cases hi; exact (execFft_next h).imp_left fun ⟨_, e⟩ => ⟨_, by simp, e⟩
  | ifft => cases hi; exact (execIfft_next h).imp_left fun ⟨_, e⟩ => ⟨_, by simp, e⟩
  | bpmask => cases hi; exact (execBpmask_next h).imp_left fun ⟨_, _, _, e⟩ => ⟨_, by simp, e⟩
  | bpf => cases hi; exact (execBpf_next h).imp_left fun ⟨_, _, _, _, e⟩ => ⟨_, by simp, e⟩
  | cmulv => cases hi; exact (execCmulv_next h).imp_left fun ⟨hl, e⟩ => ⟨_, by simp [hl], e⟩
  | conjv => cases hi; cases h; exact .inl ⟨_, by simp, rfl⟩
  | whiten => cases hi; cases h; exact .inl ⟨_, by simp, rfl⟩
  | hrot => cases hi; exact (execHrot_next h).imp_left fun ⟨_, e⟩ => ⟨_, by simp, e⟩
  | _ => cases hi

/-- Settles O54: in-place commands and `XCORR` overwrite no more samples than the length they keep, and a raised length
leaves the memory alone. -/
theorem frameBeyondLength : Obligations.FrameBeyondLength := by
  refine ⟨fun i s t cb hi h => ?_, fun rsig cf cw s t h => ?_, fun s v r hcap => ⟨fun hle k => ?_, fun hle k => ?_⟩⟩
  · obtain ⟨xs, hxs, rfl⟩ | ⟨c, v, rfl⟩ := exec_of_inPlaceC hi h
    · exact ⟨clen_updCplxBuf s cb cb xs, fun k hk => readCplxWord_updCplxBuf_beyond s cb (by rwa [hxs])⟩
    · exact ⟨rfl, fun _ _ => rfl⟩
  · obtain ⟨-, -, hl, rfl⟩ | ⟨c, v, rfl⟩ := execXcorr_next h
    · have hlen : (realp (xcorr s.cfg.twiddle (s.cplxBuf cf) (s.realBuf rsig))).length = s.rlen rsig := by
        rw [realp_length, xcorr_length (by simpa using hl), cplxBuf_length, hl]
      exact ⟨rlen_updRealBuf _ rsig rsig _, fun k hk => readReal_updRealBuf_beyond _ rsig (hlen.trans_le hk)⟩
    · exact ⟨rfl, fun _ _ => rfl⟩
  · rw [writeHostWord_rlen s v r hcap, hostLength_raise _ _ _ _ hle]
    simp [readReal]
  · rw [writeHostWord_clen s v r hcap, hostLength_raise _ _ _ _ hle]
    simp [readCplxWord]

end Sys2Proof.Machine.State
end

section
/-! The commands of the Walsh generator (49_walsh R333 to R336): which cells a lookup sets and to what, in a state whose
set cells are cells of the current table. -/

namespace Sys2Proof.Machine

open Sys2Proof

theorem Sparse.mem_of_lookup_eq_some {α : Type} {t : Sparse α} {k : Nat} {v : α} (h : Sparse.lookup t k = some v) :
    (k, v) ∈ t := by
  induction t with
  | nil => cases h
  | cons c t ih =>
    obtain ⟨j, w⟩ := c
    rw [Sparse.lookup] at h
    split at h
    next hjk =>
      cases h
      exact hjk ▸ List.mem_cons_self
    next => exact List.mem_cons_of_mem _ (ih h)

/-- A cell's key has the cell's two indices as its digits. -/
theorem cellKey_inj {d i j a b : Nat} (hj : j < d) (hb : b < d) (h : a * d + b = i * d + j) : a = i ∧ b = j := by
  have hd : 0 < d := by omega
  have digits {c e : Nat} (he : e < d) : (c * d + e) / d = c ∧ (c * d + e) % d = e := by
    rw [mul_comm]
    exact ⟨by rw [Nat.mul_add_div hd, Nat.div_eq_of_lt he, Nat.add_zero], by rw [Nat.mul_add_mod, Nat.mod_eq_of_lt he]⟩
  exact ⟨(digits hb).1.symm.trans (h ▸ (digits hj).1), (digits hb).2.symm.trans (h ▸ (digits hj).2)⟩

namespace State

variable {s : State} {i j a b : Nat}

/-! ### Cells after lookups -/

/-- A set cell is a cell of the current table, with its value (R49). -/
theorem Inv.of_cell_eq_some (h : s.Inv) (hb : b < s.cfg.wDim) {v : Sign} (hv : s.cell a b = some v) :
    a < s.walshDim ∧ b < s.walshDim ∧ v = walsh s.cfg.walshNeg s.WORD a b := by
  obtain ⟨-, i, j, hi, hj, e⟩ := h.wt_cell _ (Sparse.mem_of_lookup_eq_some hv)
  obtain ⟨hkey, rfl⟩ := Prod.mk.inj e
  obtain ⟨rfl, rfl⟩ := cellKey_inj (hj.trans_le h.walshDim_le) hb hkey
  exact ⟨hi, hj, rfl⟩

theorem cell_touch_ne (hj : j < s.cfg.wDim) (hb : b < s.cfg.wDim) (hne : (a, b) ≠ (i, j)) :
    (s.touch i j).cell a b = s.cell a b := by
  unfold touch
  split
  · rfl
  · exact Sparse.lookup_put_ne _ _ fun e => hne (Prod.ext_iff.mpr (cellKey_inj hj hb e))

theorem Inv.cell_touch_same (h : s.Inv) (hj : j < s.cfg.wDim) :
    (s.touch i j).cell i j = some (walsh s.cfg.walshNeg s.WORD i j) := by
  rw [State.cell_touch_same]
  cases hv : s.cell i j with
  | none => rfl
  | some v => rw [(h.of_cell_eq_some hj hv).2.2, Option.getD_some]

/-- Lookups of cells of the current table set exactly these cells. -/
theorem Inv.cell_touchCells (h : s.Inv) (hw : s.WORD ≠ 0) (hb : b < s.cfg.wDim) {cells : List (Nat × Nat)}
    (hc : ∀ c ∈ cells, c.1 < s.walshDim ∧ c.2 < s.walshDim) : (s.touchCells cells).cell a b =
      if (a, b) ∈ cells then some (walsh s.cfg.walshNeg s.WORD a b) else s.cell a b := by
  induction cells generalizing s with
  | nil => rfl
  | cons c cells ih =>
    obtain ⟨⟨hi, hj⟩, hrest⟩ := List.forall_mem_cons.mp hc
    have hj' := hj.trans_le h.walshDim_le
    rw [touchCells, List.foldl_cons, ← touchCells, ih (h.touch hw hi hj) (by simpa using hw) (by simpa using hb)
      (by simpa using hrest), touch_cfg, touch_WORD]
    by_cases hab : (a, b) = c
    · obtain rfl := hab
      rw [if_pos List.mem_cons_self, h.cell_touch_same hj', ite_self]
    · rw [cell_touch_ne hj' hb hab]
      simp [hab]

/-- The cells that `WGET` looks up (R335): the requested one modulo each half. -/
theorem mem_chain_iff {n : Nat} : (a, b) ∈ (List.range n).map (fun k => (i % 2 ^ k, j % 2 ^ k)) ↔
    ∃ m, 1 ≤ m ∧ m ≤ n ∧ a = i % 2 ^ (m - 1) ∧ b = j % 2 ^ (m - 1) := by
  simp only [List.mem_map, List.mem_range, Prod.mk.injEq]
  constructor
  · rintro ⟨k, hk, rfl, rfl⟩
    exact ⟨k + 1, by omega, hk, rfl, rfl⟩
  · rintro ⟨m, h1, hm, rfl, rfl⟩
    exact ⟨m - 1, by omega, rfl, rfl⟩

theorem lt_walshDim_of_mem_chain {c : Nat × Nat}
    (hc : c ∈ (List.range s.WORD).map fun k => (i % 2 ^ k, j % 2 ^ k)) : c.1 < s.walshDim ∧ c.2 < s.walshDim := by
  obtain ⟨m, -, hm, h1, h2⟩ := mem_chain_iff.mp hc
  have hd : 2 ^ (m - 1) ≤ s.walshDim := Nat.pow_le_pow_right (by decide) (by omega)
  rw [h1, h2]
  exact ⟨(Nat.mod_lt i (by positivity)).trans_le hd, (Nat.mod_lt j (by positivity)).trans_le hd⟩

theorem Inv.cell_touchChain (h : s.Inv) (hw : s.WORD ≠ 0) (hb : b < s.cfg.wDim) : (s.touchChain i j).cell a b =
    if (a, b) ∈ (List.range s.WORD).map (fun k => (i % 2 ^ k, j % 2 ^ k))
      then some (walsh s.cfg.walshNeg s.WORD a b) else s.cell a b := by
  rw [touchChain_eq_touchCells, h.cell_touchCells hw hb fun _ => lt_walshDim_of_mem_chain]

/-- After `WFILL` exactly the cells of the current table are set (R334). -/
theorem Inv.cell_touchAll (h : s.Inv) (hw : s.WORD ≠ 0) (hb : b < s.cfg.wDim) : s.touchAll.cell a b =
    if a < s.walshDim ∧ b < s.walshDim then some (walsh s.cfg.walshNeg s.WORD a b) else none := by
  have hmem (c : Nat × Nat) : c ∈ List.range s.walshDim ×ˢ List.range s.walshDim ↔
      c.1 < s.walshDim ∧ c.2 < s.walshDim :=
    List.pair_mem_product.trans (and_congr List.mem_range List.mem_range)
  rw [touchAll_eq_touchCells, h.cell_touchCells hw hb fun c hc => (hmem c).mp hc, if_congr (hmem _) rfl rfl]
  split
  next => rfl
  next hout =>
    cases hv : s.cell a b with
    | none => rfl
    | some v =>
      obtain ⟨ha, hb', -⟩ := h.of_cell_eq_some hb hv
      exact absurd ⟨ha, hb'⟩ hout

end State

/-! ### The commands -/

section
variable {s : State} {pn pd pi pj : Fin 16}

theorem execWords_eq (pn : Fin 16) (s : State) : execWords pn s =
    if 1 ≤ s.idx pn ∧ s.idx pn ≤ s.cfg.wLogDim + 1 then done { s with WORD := s.idx pn, WT := [] }
    else .next (s.takeFault .param (s.idx pn)) := by
  simp only [execWords, finish_require_bind, decide_eq_true_eq]
  rfl

theorem execWget_of_fits (hw : s.WORD ≠ 0) (hi : s.idx pi < s.walshDim) (hj : s.idx pj < s.walshDim) :
    execWget pd pi pj s = done ((s.touchChain (s.idx pi) (s.idx pj)).setP pd
      (signWord (walsh s.cfg.walshNeg s.WORD (s.idx pi) (s.idx pj)))) := by
  simp only [execWget, finish_require_bind, decide_eq_true_eq, if_pos hw, if_pos hi, if_pos hj]
  rfl

/-- The check of `WGET` that fails first is the one that raises (R335). -/
theorem execWget_of_not (h : ¬ (s.WORD ≠ 0 ∧ s.idx pi < s.walshDim ∧ s.idx pj < s.walshDim)) :
    execWget pd pi pj s = .next (if s.WORD = 0 then s.takeFault .walshState 0
      else if s.walshDim ≤ s.idx pi then s.takeFault .bounds (s.idx pi) else s.takeFault .bounds (s.idx pj)) := by
  simp only [execWget, finish_require_bind, decide_eq_true_eq]
  by_cases hw : s.WORD = 0
  · simp [hw]
  by_cases hi : s.walshDim ≤ s.idx pi
  · simp [hw, hi]
  have hj : ¬ s.idx pj < s.walshDim := fun hj => h ⟨hw, not_le.mp hi, hj⟩
  simp [hw, hi, hj]

theorem execWfill_eq (s : State) : execWfill s =
    if s.WORD = 0 then .next (s.takeFault .walshState 0) else done s.touchAll := by
  simp only [execWfill, finish_require_bind, decide_eq_true_eq, ne_eq, ite_not]
  rfl

end

/-- Settles O45: each command by its checks, the cells by the lookups it makes. -/
theorem walshCommands : Obligations.WalshCommands := by
  refine ⟨fun pn s => ⟨rfl, fun h1 hn => ?_, fun h => ?_⟩,
    fun pd pi pj s hs => ⟨rfl, fun hw hi hj => ?_, execWget_of_not⟩, fun s hs => ⟨rfl, fun hw => ?_, fun hw => ?_⟩⟩
  · rw [exec, execWords_eq, if_pos ⟨h1, hn⟩]
    exact ⟨_, rfl, fun _ _ => rfl⟩
  · rw [exec, execWords_eq, if_neg (by omega)]
  · rw [exec, execWget_of_fits hw hi hj]
    have hcell (a b : Nat) (hb : b < s.cfg.wDim) := hs.cell_touchChain (i := s.idx pi) (j := s.idx pj) (a := a) hw hb
    obtain ⟨wt, hwt⟩ := s.touchChain_frame (s.idx pi) (s.idx pj)
    rw [hwt] at hcell ⊢
    exact ⟨wt, rfl, fun a b _ hb => ⟨fun hm => (hcell a b hb).trans (if_pos (State.mem_chain_iff.mpr hm)),
      fun hm => (hcell a b hb).trans (if_neg fun hmem => hm (State.mem_chain_iff.mp hmem))⟩⟩
  · rw [exec, execWfill_eq, if_neg hw]
    have hcell (a b : Nat) (hb : b < s.cfg.wDim) := hs.cell_touchAll (a := a) hw hb
    obtain ⟨wt, hwt⟩ := s.touchAll_frame
    rw [hwt] at hcell ⊢
    refine ⟨wt, rfl, (State.wfull_iff _).mpr ⟨hw, fun a b ha hb => ?_⟩, fun a b _ hb => hcell a b hb⟩
    rw [hcell a b (hb.trans_le hs.walshDim_le), if_pos ⟨ha, hb⟩]
    rfl
  · rw [exec, execWfill_eq, if_pos hw]

end Sys2Proof.Machine
end

section
/-! The Walsh memo is only a memo (49_walsh R336): a lookup never changes a set cell, and neither a command's checks nor
the rest of what it writes depend on which cells are set. -/

namespace Sys2Proof.Machine.State

open Sys2Proof

variable {i : Instr} {s t : State}

/-! ### Set cells -/

theorem cell_touchCells_of_set (cells : List (Nat × Nat)) {a b : Nat} {v : Sign} (h : s.cell a b = some v) :
    (s.touchCells cells).cell a b = some v := by
  induction cells generalizing s with
  | nil => exact h
  | cons c cells ih => exact ih (cell_touch_of_set s h)

theorem exec_cell_eq (hi : i.writesWalsh = false) (h : exec i s = .next t) (a b : Nat) : t.cell a b = s.cell a b := by
  cases exec_ends h with
  | halted | faulted => rfl
  | completed hu =>
    obtain ⟨-, hwt⟩ := hu.walsh_eq hi
    obtain ⟨_, _, _, _, _, _, rfl⟩ := hu.frame
    exact congrArg (Sparse.lookup · (a * s.cfg.wDim + b)) hwt

/-- `WGET` and `WFILL` look cells up, every command but `WORDS` and these leaves the table alone. -/
theorem exec_cell_of_set (hi : ∀ pn, i ≠ .words pn) (h : exec i s = .next t) {a b : Nat} {v : Sign}
    (hv : s.cell a b = some v) : t.cell a b = some v := by
  cases i with
  | words pn => exact absurd rfl (hi pn)
  | wget =>
    obtain ⟨-, -, -, rfl⟩ | ⟨c, v, rfl⟩ := execWget_next h
    · rw [touchChain_eq_touchCells]
      exact cell_touchCells_of_set _ hv
    · exact hv
  | wfill =>
    obtain ⟨-, rfl⟩ | ⟨c, v, rfl⟩ := execWfill_next h
    · rw [touchAll_eq_touchCells]
      exact cell_touchCells_of_set _ hv
    · exact hv
  | _ => exact (exec_cell_eq rfl h a b).trans hv

/-! ### Which cells are set -/

/-- Two checked sequences raise the same, or both end well in states that differ in the set cells alone. -/
inductive SameUpToMemo : Except Raise State → Except Raise State → Prop
  | ok (u : State) (wt : Sparse Sign) : SameUpToMemo (.ok u) (.ok { u with WT := wt })
  | error (e : Raise) : SameUpToMemo (.error e) (.error e)

/-- A check, or another part, that does not see the memo. -/
theorem SameUpToMemo.seq {α : Type} {m : Except Raise α} {k l : α → Except Raise State}
    (h : ∀ a, SameUpToMemo (k a) (l a)) : SameUpToMemo (m >>= k) (m >>= l) := by
  cases m with
  | ok a => exact h a
  | error e => exact .error e

/-- Two outcomes are next states that differ in the set cells alone. -/
def NextUpToMemo (o p : Host.Outcome State Fault Refusal) : Prop := ∃ u wt, o = .next u ∧ p = .next { u with WT := wt }

theorem SameUpToMemo.finish {r q : Except Raise State} (wt : Sparse Sign) (h : SameUpToMemo r q) :
    NextUpToMemo (finish s r) (finish { s with WT := wt } q) := by
  cases h with
  | ok u wt => exact ⟨u.advance, wt, rfl, rfl⟩
  | error e => exact ⟨s.takeFault e.1 e.2, wt, rfl, rfl⟩

theorem setBlockP_withWT (s : State) (wt : Sparse Sign) (base : Fin 16) (k : Nat) (v : Word) :
    { s with WT := wt }.setBlockP base k v = { s.setBlockP base k v with WT := wt } := by
  unfold setBlockP
  split <;> rfl

theorem touchChain_withWT (s : State) (wt : Sparse Sign) (a b : Nat) :
    ∃ wt', { s with WT := wt }.touchChain a b = { s.touchChain a b with WT := wt' } := by
  obtain ⟨wt', h⟩ := { s with WT := wt }.touchChain_frame a b
  obtain ⟨_, h₀⟩ := s.touchChain_frame a b
  exact ⟨wt', by rw [h, h₀]⟩

theorem touchAll_withWT (s : State) (wt : Sparse Sign) :
    ∃ wt', { s with WT := wt }.touchAll = { s.touchAll with WT := wt' } := by
  obtain ⟨wt', h⟩ := { s with WT := wt }.touchAll_frame
  obtain ⟨_, h₀⟩ := s.touchAll_frame
  exact ⟨wt', by rw [h, h₀]⟩

/-- Each command makes the same checks whichever cells are set, and writes the same. -/
theorem exec_upToMemo (i : Instr) (s : State) (wt : Sparse Sign) :
    NextUpToMemo (exec i s) (exec i { s with WT := wt }) := by
  cases i with
  | nop | halt | setlo | sethi | movp | zmk | zre | zim | zadd | zsub | zmul | zmag | zphase | znorm | zisz | zconj
  | conjv | whiten | realp => exact ⟨_, wt, rfl, rfl⟩
  | ccopy =>
    simp only [exec, execCcopy]
    split <;> exact ⟨_, wt, rfl, rfl⟩
  | rcopy =>
    simp only [exec, execRcopy]
    split <;> exact ⟨_, wt, rfl, rfl⟩
  | czero | rzero | rld | rst | zld | zst | zdiv | zdivs | bitrev | bfly | fft | ifft | hrot | lift | rfft | xcinit
  | hilb | cmulv => exact SameUpToMemo.finish wt (.seq fun _ => .ok _ wt)
  | twid | bpf | decim => exact SameUpToMemo.finish wt (.seq fun _ => .seq fun _ => .ok _ wt)
  | bpmask | conv | xcorr => exact SameUpToMemo.finish wt (.seq fun _ => .seq fun _ => .seq fun _ => .ok _ wt)
  | bpedge =>
    simp only [exec, execBpedge, setBlockP_withWT]
    exact SameUpToMemo.finish wt (.seq fun _ => .seq fun _ => .seq fun _ => .ok _ wt)
  | rfftg | zstuff =>
    exact SameUpToMemo.finish wt (.seq fun _ => .seq fun _ => .seq fun _ => .seq fun _ => .seq fun _ => .ok _ wt)
  | resamp =>
    exact SameUpToMemo.finish wt (.seq fun _ => .seq fun _ => .seq fun _ => .seq fun _ => .seq fun _ => .seq fun _ =>
      .seq fun _ => .seq fun _ => .ok _ wt)
  | words => exact SameUpToMemo.finish wt (.seq fun _ => .ok _ [])
  | wget pd pi pj =>
    obtain ⟨wt', h⟩ := s.touchChain_withWT wt (s.idx pi) (s.idx pj)
    refine SameUpToMemo.finish wt (.seq fun _ => .seq fun _ => .seq fun _ => ?_)
    exact h ▸ .ok ((s.touchChain (s.idx pi) (s.idx pj)).setP pd _) wt'
  | wfill =>
    obtain ⟨wt', h⟩ := s.touchAll_withWT wt
    refine SameUpToMemo.finish wt (.seq fun _ => ?_)
    exact h ▸ .ok s.touchAll wt'

/-- Settles O48: set cells by the lookups, and the rest of a command by its checks and writes. -/
theorem walshMemo : Obligations.WalshMemo := by
  refine ⟨fun i s t a b v hi h hv => exec_cell_of_set hi h hv, fun i s t wt h => ?_⟩
  obtain ⟨u, wt', hu, hmemo⟩ := exec_upToMemo i s wt
  cases h.symm.trans hu
  exact ⟨wt', hmemo⟩

end Sys2Proof.Machine.State
end

section
/-! Which command raises which cause (60_exceptions R351): every check a command makes names a cause whose row lists the
command. -/

namespace Sys2Proof.Machine

open Sys2Proof

/-- The row of the cause lists the command (R351): by evaluation, so that it holds by `rfl` for any operands. -/
abbrev Cause.Lists (c : Cause) (n : String) : Prop := c.raisedBy.contains n = true

/-- A part of the command with mnemonic `n` raises only causes whose row lists it; where the part ends well, its result
satisfies `post`. -/
def Checks (n : String) {α : Type} (post : α → Prop) : Except Raise α → Prop
  | .ok a => post a
  | .error (c, _) => c.Lists n

namespace Checks

variable {n : String} {α β : Type} {post : β → Prop}

theorem seq {m : Except Raise α} {k : α → Except Raise β} (hm : Checks n (fun _ => True) m)
    (hk : ∀ a, Checks n post (k a)) : Checks n post (m >>= k) := by
  cases m with
  | ok a => exact hk a
  | error e => exact hm

theorem require {c : Cause} (hc : c.Lists n) (ok : Bool) (v : Nat) :
    Checks n (fun _ => True) (require ok c v) := by
  cases ok
  · exact hc
  · trivial

/-- A check, then the rest. -/
theorem check {c : Cause} {ok : Bool} {v : Nat} {k : Unit → Except Raise β} (hc : c.Lists n)
    (hk : ∀ a, Checks n post (k a)) : Checks n post (Machine.require ok c v >>= k) := .seq (.require hc ok v) hk

theorem elementIndex (h : Cause.bounds.Lists n) (s : State) (pi : Fin 16) (len : Nat) :
    Checks n (fun _ => True) (elementIndex s pi len) := .check h fun _ => trivial

theorem requireLift (hpow : Cause.notPow2.Lists n) (hb : Cause.bounds.Lists n) (s : State) (size l : Nat) :
    Checks n (fun _ => True) (requireLift s size l) := .check hpow fun _ => .check hb fun _ => .require hb _ _

theorem binIndex (h : Cause.param.Lists n) (pos : F32) : Checks n (fun _ => True) (binIndex pos) := by
  unfold Machine.binIndex
  split
  · trivial
  · exact h

theorem bpedge (hw : Cause.bpWidth.Lists n) (hp : Cause.param.Lists n) (hn : Cause.bpNyquist.Lists n)
    (size : Nat) (fs f0 bw : F32) : Checks n (fun _ => True) (bpedge size fs f0 bw) :=
  .check hw fun _ => .check hp fun _ => .seq (.binIndex hp _) fun _ => .seq (.binIndex hp _) fun _ =>
    .check hn fun _ => trivial

theorem decimStep (h : Cause.param.Lists n) (q : F32) : Checks n (fun _ => True) (decimStep q) := by
  unfold Machine.decimStep
  split
  · split
    · trivial
    · exact h
  · exact h

end Checks

/-! ### The commands -/

namespace State

theorem setBlockP_STATE (s : State) (base : Fin 16) (k : Nat) (v : Word) : (s.setBlockP base k v).STATE = s.STATE := by
  unfold setBlockP
  split <;> rfl

theorem touchChain_STATE (s : State) (a b : Nat) : (s.touchChain a b).STATE = s.STATE := by
  obtain ⟨_, h⟩ := s.touchChain_frame a b
  rw [h]

theorem touchAll_STATE (s : State) : s.touchAll.STATE = s.STATE := by
  obtain ⟨_, h⟩ := s.touchAll_frame
  rw [h]

end State

/-- What a command does that is no `HALT`: checks that name causes of its rows, then writes that leave `STATE` alone. -/
def EndsByChecks (n : String) (s : State) (o : Host.Outcome State Fault Refusal) : Prop :=
  ∃ r, o = finish s r ∧ Checks n (fun u => u.STATE = s.STATE) r

/-- Each command by its checks in their order, each with a cause of a row that lists the command. -/
theorem exec_endsByChecks {i : Instr} (hi : i ≠ .halt) (s : State) : EndsByChecks i.mnemonic s (exec i s) := by
  cases i with
  | halt => exact absurd rfl hi
  | nop | setlo | sethi | movp | zmk | zre | zim | zadd | zsub | zmul | zmag | zphase | znorm | zisz | zconj | conjv
  | whiten | realp => exact ⟨.ok _, rfl, rfl⟩
  | ccopy cd cs =>
    refine ⟨.ok _, rfl, (apply_ite State.STATE _ _ _).trans ?_⟩
    exact ite_self _
  | rcopy rd rs =>
    refine ⟨.ok _, rfl, (apply_ite State.STATE _ _ _).trans ?_⟩
    exact ite_self _
  | czero | rzero | cmulv | zdiv | zdivs | bitrev | bfly | fft | ifft | hrot | words =>
    exact ⟨_, rfl, .check rfl fun _ => rfl⟩
  | twid | decim => exact ⟨_, rfl, .check rfl fun _ => .check rfl fun _ => rfl⟩
  | bpmask | xcorr => exact ⟨_, rfl, .check rfl fun _ => .check rfl fun _ => .check rfl fun _ => rfl⟩
  | rfftg | zstuff =>
    exact ⟨_, rfl, .check rfl fun _ => .check rfl fun _ => .check rfl fun _ => .check rfl fun _ =>
      .check rfl fun _ => rfl⟩
  | rld | rst | zld | zst => exact ⟨_, rfl, .seq (.elementIndex rfl _ _ _) fun _ => rfl⟩
  | lift | rfft | xcinit | hilb => exact ⟨_, rfl, .seq (.requireLift rfl rfl _ _ _) fun _ => rfl⟩
  | conv =>
    exact ⟨_, rfl, .check rfl fun _ => .seq (.requireLift rfl rfl _ _ _) fun _ => .check rfl fun _ => rfl⟩
  | bpedge =>
    refine ⟨_, rfl, .check rfl fun _ => .check rfl fun _ => .seq (.bpedge rfl rfl rfl _ _ _ _) fun _ => ?_⟩
    exact (State.setBlockP_STATE ..).trans ((State.setBlockP_STATE ..).trans
      ((State.setBlockP_STATE ..).trans (State.setBlockP_STATE ..)))
  | bpf => exact ⟨_, rfl, .check rfl fun _ => .seq (.bpedge rfl rfl rfl _ _ _ _) fun _ => rfl⟩
  | resamp =>
    exact ⟨_, rfl, .check rfl fun _ => .check rfl fun _ => .check rfl fun _ => .check rfl fun _ => .check rfl fun _ =>
      .check rfl fun _ => .check rfl fun _ => .seq (.decimStep rfl _) fun _ => rfl⟩
  | wget =>
    exact ⟨_, rfl, .check rfl fun _ => .check rfl fun _ => .check rfl fun _ => s.touchChain_STATE _ _⟩
  | wfill => exact ⟨_, rfl, .check rfl fun _ => s.touchAll_STATE⟩

/-- Settles O50: a command that ends in `FAULT` from `RUN` has raised, since `HALT` and its writes do not lead there. -/
theorem faultCauses : Obligations.FaultCauses := by
  refine ⟨rfl, fun i s t hrun h hfault => ?_⟩
  obtain rfl | hi := eq_or_ne i .halt
  · cases h
    cases hfault
  obtain ⟨r, hr, hchecks⟩ := exec_endsByChecks hi s
  obtain ⟨u, rfl, rfl⟩ | ⟨c, v, rfl, rfl⟩ := finish_cases (hr.symm.trans h)
  · cases (hchecks.trans hrun).symm.trans hfault
  · exact ⟨c, v, rfl, List.contains_iff_mem.mp hchecks⟩

end Sys2Proof.Machine
end
